-- ==== Sys2Proof/Word.lean ====
section
/-! DEFINITION. The word types of the decoder core (spec/00_scope.md R6, 30_encoding.md R37 and R38). -/

namespace Sys2Proof

/-- `BITS`: the width of a channel word and the number of data bits of a slot, fixed at 24 (R6, D20). -/
abbrev bits : Nat := 24

/-- A channel word: exactly `BITS` bits (R14). -/
abbrev Word := BitVec 24

/-- A byte of the binary output encoding (R78). -/
abbrev Byte := BitVec 8

/-- A line-state sample, `SAMPLE_W` = 8 bits (R6, R37). -/
abbrev Sample := BitVec 8

/-- The lookup key: state code in bits 10:8, sample in bits 7:0 (R38). -/
abbrev Key := BitVec 11

end Sys2Proof
end

