-- ==== Sys2Proof/Config.lean ====
section
/-! DEFINITION. What is fixed for one decoder: the parameters of spec/00_scope.md R6 and the layout parameters of
42_output_encoder.md R81 (D16). They are constants of a run (10_state.md R19). -/

namespace Sys2Proof

/-- `OUT_MODE` (R6, R77). -/
inductive OutMode where
  | binary
  | human
  deriving DecidableEq, Repr

/-- The side on which a number's field is padded (part of `PAD`, D16). -/
inductive PadSide where
  | left
  | right
  deriving DecidableEq, Repr

/-- `EOL`, the line-end policy (D16): the text of a line end, and after which kinds of item one is written.
DESIGN CHOICE (log entry 10): the spec leaves the policy open. -/
structure LineEnds where
  mark       : List Char
  afterOpen  : Bool
  afterWord  : Bool
  afterClose : Bool
  deriving DecidableEq, Repr

/-- The text layout of human-readable mode: `FIELD_W`, `PAD`, `SEP`, `EOL` (R81, D16). -/
structure Layout where
  fieldW  : Nat
  padChar : Char
  padSide : PadSide
  sep     : List Char
  eol     : LineEnds
  deriving DecidableEq, Repr

/-- The parameters of one decoder (R6). `BITS`, `SAMPLE_W`, `STATE_W` and `CB_W` have one legal value each and stand in
the types; `CC_W` follows `CHANNELS` (`ccW`). -/
structure Config where
  channels : Nat
  nEmit    : Nat
  outMode  : OutMode
  layout   : Layout
  deriving DecidableEq, Repr

/-- The legal ranges of R6 and D16: `CHANNELS` at least 1, `N_EMIT` in 1..`CHANNELS`, `FIELD_W` at least 8. -/
abbrev Config.Legal (c : Config) : Prop :=
  1 ≤ c.channels ∧ 1 ≤ c.nEmit ∧ c.nEmit ≤ c.channels ∧ 8 ≤ c.layout.fieldW

/-- `STATE_W` (R6). -/
def stateW : Nat := 3

/-- `CB_W` = ceil(log2 `BITS`) (R6, R16). -/
def cbW : Nat := 5

/-- `CC_W` = ceil(log2(`CHANNELS` + 1)), the number of bits of `CHANNELS` (R6, R15). -/
def ccW (channels : Nat) : Nat := Nat.log2 channels + 1

/-- The configuration `State.reset` carries: `CHANNELS` and `N_EMIT` at the defaults of R6. DESIGN CHOICE (log entry 2,
unsafe): the spec gives `OUT_MODE` and the layout no default; no statement rests on the values chosen here. -/
def Config.default : Config where
  channels := 4
  nEmit := 1
  outMode := .binary
  layout :=
    { fieldW := 8, padChar := ' ', padSide := .left, sep := [' '],
      eol := { mark := [], afterOpen := false, afterWord := false, afterClose := false } }

end Sys2Proof
end

