-- ==== Sys2Proof/Syntax.lean ====
section
/-! DEFINITION. The named states, the action kinds and the operations of the decoder core: one constructor of `Instr`
per row of spec/opcode_table.json. -/

namespace Sys2Proof

/-- The DecoderState (10_state.md R11): four reachable states, three named states no rule reaches, and code 7, which
names no state (30_encoding.md R47; DESIGN CHOICE, log entry 9: kept, and stuck as R47 says). -/
inductive DecoderState where
  | idle
  | frameStart
  | frameActive
  | dataBitActive
  | frameFirstBit
  | frameEnd
  | dataBitStart
  | reserved7
  deriving DecidableEq, Repr

/-- The closed enumeration of action kinds (30_encoding.md R40). -/
inductive ActionKind where
  | none
  | frameStart
  | dataBit
  | frameEnd
  deriving DecidableEq, Repr

/-- The operations. A key row carries the bits its encoding leaves free: `x` the ignored sample bits 7:3, `d` data_line,
`c` bit_clock, `s` frame_strobe, and for HOLD the state `q` it was met in (R37, R43). The encoder rows have no operand
bits (42_output_encoder.md R77). -/
inductive Instr where
  | frameOpen (x : BitVec 5) (d c : Bool)
  | frameArm (x : BitVec 5) (d c : Bool)
  | clkHigh (x : BitVec 5) (d s : Bool)
  | bitShift (x : BitVec 5) (d s : Bool)
  | frameTurn (x : BitVec 5) (d c : Bool)
  | hold (q : DecoderState) (x : BitVec 5) (d c s : Bool)
  | encBinary
  | encHuman
  deriving DecidableEq, Repr

end Sys2Proof
end

