-- ==== Sys2Proof/Machine/State.lean ====
section
/-! DEFINITION. The state of the machine: the DecoderContext (spec/10_state.md R10), the constants of the run (R19), the
environment's cycles and the outputs (R22, R23), and the reasons a step can stop. -/

namespace Sys2Proof.Machine

/-- The DecoderContext: all state of the block (R10). -/
structure Context where
  /-- The control position, `STATE_W` = 3 bits (R11). -/
  state          : DecoderState
  /-- The slot the next data bit goes to, 0..`CHANNELS` (R15). -/
  currentChannel : Nat
  /-- The number of data bits in that slot, 0..`BITS`-1 between steps (R16). -/
  currentBit     : Nat
  /-- The channel-word accumulators `acc[0..CHANNELS-1]` (R14). -/
  acc            : List Word
  /-- The sticky fault flag (R17). -/
  faultOverflow  : Bool
  deriving DecidableEq, Repr

/-- An output event (R22): `opened` is Open, `closed` is Close, `word k w` is Word(k, w). -/
inductive Event where
  | opened
  | word (k : Nat) (w : Word)
  | closed
  deriving DecidableEq, Repr

/-- One clock cycle as the host drives it: the input ports of R23, and which of the cycle's output events the sink fails
to take (R84, R111): event `j` is lost when `lost` holds true at place `j` (log entry 6). -/
structure Cycle where
  rst         : Bool
  sampleValid : Bool
  sample      : Sample
  lost        : List Bool
  deriving DecidableEq, Repr

/-- The machine. `cfg` is constant (R19, log entry 1); `ctx` is the block's state; the other fields are the model's own
and carry the environment (log entries 3, 5, 6, 7). -/
structure State where
  /-- The parameters of R6: no operation writes them. -/
  cfg       : Config
  /-- The DecoderContext (R10). -/
  ctx       : Context
  /-- Whether a reset edge has been seen (R101, R102). -/
  wasReset  : Bool
  /-- The cycles the host still presents (R32, R108). -/
  input     : List Cycle
  /-- The event list of the step in progress (R22, R64). -/
  events    : List Event
  /-- Every event of the run so far, in order (R33, R113). -/
  presented : List Event
  /-- Which events of the cycle in progress the sink fails to take (R84). -/
  lost      : List Bool
  /-- What the byte sink has received (R77, R109). -/
  byteSink  : List Byte
  /-- What the text sink has received (R77, R109). -/
  textSink  : List Char
  deriving DecidableEq, Repr

/-- Why a step stops the machine. Neither is a fault of the block: ChannelOverflow, its one fault, is a flag and stops
nothing (60_exceptions.md R87). -/
inductive Fault where
  /-- Raised by on_data_bit when `current_channel` is neither `CHANNELS` nor the index of a slot, a value it never
  takes (20_memory.md R26, R30). Safe: no run reaches it. -/
  | slotOutOfRange
  /-- Raised by on_frame_end when `N_EMIT` exceeds the number of slots, outside its legal range (00_scope.md R6,
  20_memory.md R30). Safe: no legal configuration reaches it. -/
  | emitOutOfRange
  deriving DecidableEq, Repr

/-- Why a step has no meaning. -/
inductive Refusal where
  /-- Raised by exec for an instruction without a meaning. Safe. No arm raises it. -/
  | notModelled (mnemonic : String)
  /-- Raised by step for a sample presented before the first reset edge, to which the spec gives no meaning
  (70_reset_and_hazards.md R101). Safe. -/
  | beforeReset
  deriving DecidableEq, Repr

/-- The context after reset (10_state.md R20). -/
def Context.reset (channels : Nat) : Context where
  state := .idle
  currentChannel := 0
  currentBit := 0
  acc := List.replicate channels 0
  faultOverflow := false

/-- The machine right after reset (R20, R100), with the configuration of `Config.default` (log entry 2), no cycle
presented and nothing put out. -/
def State.reset : State where
  cfg := Config.default
  ctx := Context.reset Config.default.channels
  wasReset := true
  input := []
  events := []
  presented := []
  lost := []
  byteSink := []
  textSink := []

end Sys2Proof.Machine
end

