-- ==== Sys2Proof/Machine/Flags.lean ====
section
/-! DEFINITION. The block's only flag (spec/10_state.md R17): the condition that sets it and the setting. There are no
arithmetic flags (41_decoder_actions.md R70). -/

namespace Sys2Proof.Machine

/-- `current_channel == CHANNELS`: every slot is full (R68, R87). -/
def allSlotsFull (s : State) : Bool := s.ctx.currentChannel == s.cfg.channels

/-- `fault_overflow <- 1`; no operation clears it but reset (R17). -/
def setFaultOverflow (s : State) : State := { s with ctx := { s.ctx with faultOverflow := true } }

end Sys2Proof.Machine
end

