-- ==== Sys2Proof/WellFormed.lean ====
section
/-! DEFINITION. Which instructions the priority of the table (spec/30_encoding.md R44) lets occur. -/

namespace Sys2Proof

/-- The pairs of state and lines in which no rule matches (40_transition_table.md R60). -/
def noRuleMatches (q : DecoderState) (c s : Bool) : Bool :=
  match q with
  | .idle => !s
  | .frameStart => s
  | .frameActive => !c && !s
  | .dataBitActive => c
  | .frameFirstBit => true
  | .frameEnd => true
  | .dataBitStart => true
  | .reserved7 => true

/-- FRAME_TURN occurs only with bit_clock clear, since CLK_HIGH is declared before it (R44, R59); HOLD only where no
rule matches (R60); every operand of the other rows is free (R43). -/
def Instr.wf : Instr → Bool
  | .frameOpen _ _ _ => true
  | .frameArm _ _ _ => true
  | .clkHigh _ _ _ => true
  | .bitShift _ _ _ => true
  | .frameTurn _ _ c => !c
  | .hold q _ _ c s => noRuleMatches q c s
  | .encBinary => true
  | .encHuman => true

end Sys2Proof
end

