-- ==== Sys2Proof/Decode.lean ====
section
/-! DEFINITION. The decoder over the key and the output-mode bit (spec/30_encoding.md R37 to R49, opcode_table.json),
and the encoder written from the same tables. -/

namespace Sys2Proof

/-- The state codes of 10_state.md R11 (D3). -/
def stateCode : DecoderState → BitVec 3
  | .idle => 0
  | .frameStart => 1
  | .frameActive => 2
  | .dataBitActive => 3
  | .frameFirstBit => 4
  | .frameEnd => 5
  | .dataBitStart => 6
  | .reserved7 => 7

/-- The state a code stands for (R11); code 7 names none and is kept as `reserved7` (R47). -/
def stateOfCode (q : BitVec 3) : DecoderState :=
  match q.toNat with
  | 0 => .idle
  | 1 => .frameStart
  | 2 => .frameActive
  | 3 => .dataBitActive
  | 4 => .frameFirstBit
  | 5 => .frameEnd
  | 6 => .dataBitStart
  | _ => .reserved7

/-- `S`, frame_strobe, sample bit 0 (R37, R42). -/
def frameStrobe (b : Sample) : Bool := b.getLsbD 0

/-- `C`, bit_clock, sample bit 1 (R37, R42). -/
def bitClock (b : Sample) : Bool := b.getLsbD 1

/-- `D`, data_line, sample bit 2 (R37, R42). -/
def dataLine (b : Sample) : Bool := b.getLsbD 2

/-- Sample bits 7:3, which take part in nothing (R37, R46). -/
def ignoredBits (b : Sample) : BitVec 5 := b.extractLsb' 3 5

/-- The sample with the given fields (R37). -/
def sampleOf (x : BitVec 5) (d c s : Bool) : Sample :=
  x ++ BitVec.ofBool d ++ BitVec.ofBool c ++ BitVec.ofBool s

/-- `key = {state[2:0], sample[7:0]}` (R38). -/
def lookupKey (q : DecoderState) (b : Sample) : Key := stateCode q ++ b

/-- The sample of a key, bits 7:0 (R38). -/
def keySample (k : Key) : Sample := k.extractLsb' 0 8

/-- The state of a key, bits 10:8 (R38). -/
def keyState (k : Key) : DecoderState := stateOfCode (k.extractLsb' 8 3)

/-- A key row of the opcode table: KMASK, KMATCH (R39, R43) and the instruction of a key that matches. -/
structure KeyRow where
  kmask  : Key
  kmatch : Key
  instr  : Key → Instr

/-- Rows 1 to 5 of R43, in declaration order. -/
def keyRows : List KeyRow :=
  [ ⟨0x701, 0x001, fun k => .frameOpen (ignoredBits (keySample k)) (dataLine (keySample k)) (bitClock (keySample k))⟩,
    ⟨0x701, 0x100, fun k => .frameArm (ignoredBits (keySample k)) (dataLine (keySample k)) (bitClock (keySample k))⟩,
    ⟨0x702, 0x202, fun k => .clkHigh (ignoredBits (keySample k)) (dataLine (keySample k)) (frameStrobe (keySample k))⟩,
    ⟨0x702, 0x300, fun k => .bitShift (ignoredBits (keySample k)) (dataLine (keySample k)) (frameStrobe (keySample k))⟩,
    ⟨0x701, 0x201, fun k => .frameTurn (ignoredBits (keySample k)) (dataLine (keySample k)) (bitClock (keySample k))⟩ ]

/-- First match wins; HOLD, the last row, matches every key (R43, R44). -/
def decodeRows (k : Key) : List KeyRow → Instr
  | [] =>
    .hold (keyState k) (ignoredBits (keySample k)) (dataLine (keySample k)) (bitClock (keySample k))
      (frameStrobe (keySample k))
  | r :: rs => if k &&& r.kmask = r.kmatch then r.instr k else decodeRows k rs

/-- The instruction a key selects; there is no illegal key (R48). -/
def decodeKey (k : Key) : Instr := decodeRows k keyRows

/-- The one-bit code of `OUT_MODE` (R77, D25). -/
def outModeCode : OutMode → BitVec 1
  | .binary => 0
  | .human => 1

/-- The mode a code stands for (R77, D25). -/
def outModeOfCode (m : BitVec 1) : OutMode := if m = 0 then .binary else .human

/-- The encoder operation `OUT_MODE` selects (R77). -/
def decodeOutMode (m : BitVec 1) : Instr :=
  match outModeOfCode m with
  | .binary => .encBinary
  | .human => .encHuman

/-- A word of one of the two formats of the opcode table: `key11` (R38) or `out_mode1` (R77). -/
inductive Encoding where
  | key (k : Key)
  | outMode (m : BitVec 1)
  deriving DecidableEq, Repr

/-- The decoder over both formats: total. -/
def decode : Encoding → Instr
  | .key k => decodeKey k
  | .outMode m => decodeOutMode m

/-- The word of an instruction, from the From column, the fixed bits and the free bits of R43 and R77. -/
def encode : Instr → Encoding
  | .frameOpen x d c => .key (lookupKey .idle (sampleOf x d c true))
  | .frameArm x d c => .key (lookupKey .frameStart (sampleOf x d c false))
  | .clkHigh x d s => .key (lookupKey .frameActive (sampleOf x d true s))
  | .bitShift x d s => .key (lookupKey .dataBitActive (sampleOf x d false s))
  | .frameTurn x d c => .key (lookupKey .frameActive (sampleOf x d c true))
  | .hold q x d c s => .key (lookupKey q (sampleOf x d c s))
  | .encBinary => .outMode (outModeCode .binary)
  | .encHuman => .outMode (outModeCode .human)

/-- Why bytes are no word of the opcode table: the two formats have 1 and 11 bits, laid out here in one byte and in two
bytes, least significant first, the bits above the format's width being zero. -/
inductive DecodeError where
  | noFormatOfThisLength (nbytes : Nat)
  | bitsAboveTheFormat (w : Nat)
  deriving DecidableEq, Repr

/-- The decoder on any bytes, rejecting by name. -/
def decodeBytes : List Byte → Except DecodeError Instr
  | [b0] => if b0.toNat < 2 then .ok (decode (.outMode (b0.setWidth 1))) else .error (.bitsAboveTheFormat b0.toNat)
  | [b0, b1] =>
    if (b1 ++ b0).toNat < 2048 then .ok (decode (.key ((b1 ++ b0).setWidth 11)))
    else .error (.bitsAboveTheFormat (b1 ++ b0).toNat)
  | bs => .error (.noFormatOfThisLength bs.length)

/-- The `n` bytes of `w`, least significant first. -/
def wordBytes : Nat → Nat → List Byte
  | 0, _ => []
  | n + 1, w => BitVec.ofNat 8 w :: wordBytes n (w / 256)

/-- The instruction of a table row whose bits are `w`, `nbits` of them in whole bytes. -/
def decodeTableWord (nbits w : Nat) : Option Instr := (decodeBytes (wordBytes ((nbits + 7) / 8) w)).toOption

end Sys2Proof
end

