-- ==== Sys2Proof/Machine/Operands.lean ====
section
/-! DEFINITION. The operands of the actions: the data bit, the slot under the cursor and the slots a frame end emits
(spec/30_encoding.md R42, 41_decoder_actions.md R71). -/

namespace Sys2Proof.Machine

/-- `D` zero-extended to `BITS` bits (R42, R68). -/
def dataOperand (d : Bool) : Word := (BitVec.ofBool d).setWidth 24

/-- `acc[i]`, if slot `i` exists (R14, R26). -/
def readSlot (s : State) (i : Nat) : Option Word := s.ctx.acc[i]?

/-- `acc[current_channel]`: the one addressing mode of on_data_bit, through the cursor (R71). -/
def cursorSlot (s : State) : Option Word := readSlot s s.ctx.currentChannel

/-- `Word(k, acc[k])` for ascending `k`, the first index being `k` (R69). -/
def wordEvents (k : Nat) : List Word → List Event
  | [] => []
  | w :: ws => .word k w :: wordEvents (k + 1) ws

/-- `Word(0, acc[0])` .. `Word(N_EMIT-1, acc[N_EMIT-1])` (R69, R71). -/
def emitOperands (s : State) : List Event := wordEvents 0 (s.ctx.acc.take s.cfg.nEmit)

end Sys2Proof.Machine
end

