-- ==== Sys2Proof/Machine/Ops.lean ====
section
/-! DEFINITION. The named operations on the state: register writes, emission, raising ChannelOverflow, reset, and the
word-assembler actions of spec/41_decoder_actions.md R66 to R69. -/

namespace Sys2Proof.Machine

/-- What one operation answers. -/
abbrev Result := Host.Outcome State Fault Refusal

/-- Run `f` on the next state; a stop stays a stop. -/
def andThen (r : Result) (f : State → Result) : Result :=
  match r with
  | .next s => f s
  | .fault e => .fault e
  | .refused e => .refused e

/-- `emit(e)` for each event of a list, in order (R22). -/
def emit (es : List Event) (s : State) : State := { s with events := s.events ++ es }

/-- `state <- q` (R62). -/
def setDecoderState (q : DecoderState) (s : State) : State := { s with ctx := { s.ctx with state := q } }

/-- `acc[i] <- w` (R14). -/
def writeSlot (i : Nat) (w : Word) (s : State) : State := { s with ctx := { s.ctx with acc := s.ctx.acc.set i w } }

/-- `current_channel <- c` and `current_bit <- b` (R15, R16). -/
def setCursors (c b : Nat) (s : State) : State :=
  { s with ctx := { s.ctx with currentChannel := c, currentBit := b } }

/-- ChannelOverflow, the one fault, which is no trap (R87, R91): the flag is set, the bit discarded, nothing else
changed, and the step goes on. -/
def raiseChannelOverflow (s : State) : State := setFaultOverflow s

/-- `trunc_24((a << 1) | d)` (R68, R70). -/
def shiftIn (a : Word) (d : Bool) : Word := (a <<< 1) ||| dataOperand d

/-- Advance the cursors past a captured bit, opening the next slot when this one fills and a next one exists (R68). -/
def advanceCursor (s : State) : State :=
  if s.ctx.currentBit + 1 = bits then
    if s.ctx.currentChannel + 1 < s.cfg.channels then
      writeSlot (s.ctx.currentChannel + 1) 0 (setCursors (s.ctx.currentChannel + 1) 0 s)
    else setCursors (s.ctx.currentChannel + 1) 0 s
  else setCursors s.ctx.currentChannel (s.ctx.currentBit + 1) s

/-- Action None (R66). -/
def onNone (s : State) : Result := .next s

/-- Action on_frame_start (R67). -/
def onFrameStart (s : State) : Result := .next (emit [.opened] s)

/-- Action on_data_bit with data bit `d` (R68). A cursor that is neither `CHANNELS` nor the index of a slot, which no
run has (R26), addresses nothing: `slotOutOfRange` (log entry 8). -/
def onDataBit (d : Bool) (s : State) : Result :=
  if allSlotsFull s then .next (raiseChannelOverflow s)
  else
    match cursorSlot s with
    | some a => .next (advanceCursor (writeSlot s.ctx.currentChannel (shiftIn a d) s))
    | none => .fault .slotOutOfRange

/-- Action on_frame_end (R69): the words as they stand before the writes, `Close`, `Open`, then the resets of the cursors
and `acc[0]`. An `N_EMIT` above the number of slots, outside its range (R6), addresses nothing: `emitOutOfRange`. -/
def onFrameEnd (s : State) : Result :=
  if s.cfg.nEmit ≤ s.ctx.acc.length then
    .next (writeSlot 0 0 (setCursors 0 0 (emit (emitOperands s ++ [.closed, .opened]) s)))
  else .fault .emitOutOfRange

/-- The action of a rule, then its To state, whether or not the action raised ChannelOverflow (R64, R87). -/
def takeRule (action : State → Result) (q : DecoderState) (s : State) : Result :=
  andThen (action s) (fun t => .next (setDecoderState q t))

/-- The effect of a reset edge (70_reset_and_hazards.md R100): every element of the context at its reset value, and no
event. What has left the block stays (log entry 5). -/
def applyReset (s : State) : State :=
  { s with ctx := Context.reset s.cfg.channels, wasReset := true, events := [], lost := [] }

end Sys2Proof.Machine
end

