-- ==== Sys2Proof/Machine/Encoder.lean ====
section
/-! DEFINITION. The OutputEncoder (spec/42_output_encoder.md R77 to R84): a pure function of the step's events and the
configuration, whose output goes to the sink. -/

namespace Sys2Proof.Machine

/-- The three bytes of a word, least significant first (R78). -/
def binaryTriplet (w : Word) : List Byte := [w.extractLsb' 0 8, w.extractLsb' 8 8, w.extractLsb' 16 8]

/-- The word three bytes stand for (R82). -/
def tripletWord (b0 b1 b2 : Byte) : Word := b0.setWidth 24 ||| (b1.setWidth 24 <<< 8) ||| (b2.setWidth 24 <<< 16)

/-- What an event appends in mode `Binary`: `Open` and `Close` append nothing (R78, R79). -/
def binaryBytes : Event → List Byte
  | .opened => []
  | .word _ w => binaryTriplet w
  | .closed => []

/-- `signed24(w)`: `w - 2^24` when bit 23 is set, else `w` (R80). -/
def signed24 (w : Word) : Int := if w.getLsbD 23 then (w.toNat : Int) - 16777216 else (w.toNat : Int)

/-- The decimal digits of `n`, most significant first, at most `fuel` + 1 of them. -/
def decimalDigits : Nat → Nat → List Char
  | 0, n => [Char.ofNat (48 + n % 10)]
  | fuel + 1, n =>
    if n < 10 then [Char.ofNat (48 + n)] else decimalDigits fuel (n / 10) ++ [Char.ofNat (48 + n % 10)]

/-- The decimal text of `z`, with `-` for negatives and no `+` (R81, D16); eight digits hold every `signed24`. -/
def decimalText (z : Int) : List Char :=
  if z < 0 then '-' :: decimalDigits 7 z.natAbs else decimalDigits 7 z.natAbs

/-- A text in a field of `FIELD_W` characters, padded as `PAD` says (R81, D16). -/
def field (l : Layout) (t : List Char) : List Char :=
  match l.padSide with
  | .left => List.replicate (l.fieldW - t.length) l.padChar ++ t
  | .right => t ++ List.replicate (l.fieldW - t.length) l.padChar

/-- What stands after an item: a line end where the policy has one, else `SEP` (DESIGN CHOICE, log entry 10). -/
def gapAfter (l : Layout) (lineEnd : Bool) : List Char := if lineEnd then l.eol.mark else l.sep

/-- What an event appends in mode `Human` (R81). -/
def humanText (l : Layout) : Event → List Char
  | .opened => '[' :: gapAfter l l.eol.afterOpen
  | .word _ w => field l (decimalText (signed24 w)) ++ gapAfter l l.eol.afterWord
  | .closed => ']' :: gapAfter l l.eol.afterClose

/-- The events the sink takes: all but those it fails on (R84, D17). -/
def takenEvents : List Event → List Bool → List Event
  | [], _ => []
  | e :: es, [] => e :: takenEvents es []
  | e :: es, lost :: ls => if lost then takenEvents es ls else e :: takenEvents es ls

/-- The step's events have left the block (R22, R33); nothing of them is kept for the next step (R21). -/
def present (s : State) : State := { s with presented := s.presented ++ s.events, events := [], lost := [] }

/-- ENC_BINARY (R77, R78, R79): the step's events, in order, to the byte sink. -/
def execEncBinary (s : State) : Result :=
  .next (present { s with byteSink := s.byteSink ++ (takenEvents s.events s.lost).flatMap binaryBytes })

/-- ENC_HUMAN (R77, R81): the step's events, in order, to the text sink. -/
def execEncHuman (s : State) : Result :=
  .next (present { s with textSink := s.textSink ++ (takenEvents s.events s.lost).flatMap (humanText s.cfg.layout) })

end Sys2Proof.Machine
end

