-- ==== Sys2Proof/Machine/Transition.lean ====
section
/-! DEFINITION. The meanings of the six rows over the key (spec/40_transition_table.md R55 to R60). -/

namespace Sys2Proof.Machine

/-- FRAME_OPEN (R55): on_frame_start, to FrameStart. No other sample bit is looked at. -/
def execFrameOpen (_x : BitVec 5) (_d _c : Bool) (s : State) : Result := takeRule onFrameStart .frameStart s

/-- FRAME_ARM (R56): no action, to FrameActive. -/
def execFrameArm (_x : BitVec 5) (_d _c : Bool) (s : State) : Result := takeRule onNone .frameActive s

/-- CLK_HIGH (R57): no action, to DataBitActive, whatever the strobe. -/
def execClkHigh (_x : BitVec 5) (_d _s : Bool) (s : State) : Result := takeRule onNone .dataBitActive s

/-- BIT_SHIFT (R58): on_data_bit with the data line of this sample, to FrameActive, also when the bit overflows. -/
def execBitShift (_x : BitVec 5) (d _s : Bool) (s : State) : Result := takeRule (onDataBit d) .frameActive s

/-- FRAME_TURN (R59): on_frame_end, to FrameStart. -/
def execFrameTurn (_x : BitVec 5) (_d _c : Bool) (s : State) : Result := takeRule onFrameEnd .frameStart s

/-- HOLD (R60): nothing. -/
def execHold (_q : DecoderState) (_x : BitVec 5) (_d _c _s : Bool) (s : State) : Result := .next s

end Sys2Proof.Machine
end

