-- ==== Sys2Proof/Machine/Dispatch.lean ====
section
/-! DEFINITION. exec: one arm per operation of spec/opcode_table.json. -/

namespace Sys2Proof.Machine

/-- The meaning of an instruction. -/
def exec (i : Instr) (s : State) : Host.Outcome State Fault Refusal :=
  match i with
  | .frameOpen x d c => Sys2Proof.Machine.execFrameOpen x d c s
  | .frameArm x d c => Sys2Proof.Machine.execFrameArm x d c s
  | .clkHigh x d strobe => Sys2Proof.Machine.execClkHigh x d strobe s
  | .bitShift x d strobe => Sys2Proof.Machine.execBitShift x d strobe s
  | .frameTurn x d c => Sys2Proof.Machine.execFrameTurn x d c s
  | .hold q x d c strobe => Sys2Proof.Machine.execHold q x d c strobe s
  | .encBinary => Sys2Proof.Machine.execEncBinary s
  | .encHuman => Sys2Proof.Machine.execEncHuman s

end Sys2Proof.Machine
end

