-- ==== Sys2Proof/Machine/Fetch.lean ====
section
/-! DEFINITION. What a clock cycle brings to the block (spec/10_state.md R23, 70_reset_and_hazards.md R100, R101, R108):
the fetch of the step. -/

namespace Sys2Proof.Machine

/-- What the next cycle asks for. -/
inductive Fetched where
  /-- A reset edge: the sample, if any, is not consumed (R100). -/
  | resetEdge (s : State)
  /-- No sample: `sample_valid` is 0, or the host presents nothing more (R88, R98). -/
  | noSample (s : State)
  /-- A sample: the instruction its key selects (R38, R44). -/
  | sample (i : Instr) (s : State)
  /-- A sample before the first reset edge (R101). -/
  | beforeReset
  deriving DecidableEq, Repr

/-- The instruction a sample selects in the current state (R38, R53). -/
def instrFor (s : State) (b : Sample) : Instr := decodeKey (lookupKey s.ctx.state b)

/-- Take the next cycle. `rst` dominates `sample_valid` (R90, R100). -/
def fetch (s : State) : Fetched :=
  match s.input with
  | [] => .noSample s
  | c :: rest =>
    if c.rst then .resetEdge { s with input := rest, lost := c.lost }
    else if c.sampleValid then
      if s.wasReset then .sample (instrFor s c.sample) { s with input := rest, lost := c.lost } else .beforeReset
    else .noSample { s with input := rest, lost := c.lost }

/-- The encoder operation `OUT_MODE` selects, the same one at every step of a run (R77). -/
def encoderInstr (s : State) : Instr := decodeOutMode (outModeCode s.cfg.outMode)

/-- A cycle that presents sample `b`, whose events the sink takes. -/
def sampleCycle (b : Sample) : Cycle := { rst := false, sampleValid := true, sample := b, lost := [] }

/-- A cycle with `sample_valid` = 0 (R98, R108). -/
def idleCycle : Cycle := { rst := false, sampleValid := false, sample := 0, lost := [] }

/-- A cycle with `rst` = 1 (R100). -/
def resetCycle : Cycle := { rst := true, sampleValid := false, sample := 0, lost := [] }

/-- `s` with the key word `w` as what the next step looks up: the state register holds its bits 10:8 and the host
presents its bits 7:0 next (R38). -/
def placeKey (s : State) (w : Nat) : State :=
  { s with
    ctx := { s.ctx with state := keyState (BitVec.ofNat 11 w) }
    wasReset := true
    input := sampleCycle (keySample (BitVec.ofNat 11 w)) :: s.input }

/-- `s` with the output-mode word `w` as what the next step renders by: `OUT_MODE` is `w`, a Word event stands ready and
the next cycle brings no sample (R77; log entry 16). -/
def placeOutMode (s : State) (w : Nat) : State :=
  { s with
    cfg := { s.cfg with outMode := outModeOfCode (BitVec.ofNat 1 w) }
    events := [.word 0 0]
    input := idleCycle :: s.input }

end Sys2Proof.Machine
end

