-- ==== Sys2Proof/Machine/Step.lean ====
section
/-! DEFINITION. One step: one clock cycle (spec/41_decoder_actions.md R64, 42_output_encoder.md R77,
70_reset_and_hazards.md R100, R112). -/

namespace Sys2Proof.Machine

/-- One clock cycle: a reset edge; or the instruction the sample selects, if there is a sample, and then the encoder
operation on the step's events (R64, R77, log entry 4). -/
def step (s : State) : Host.Outcome State Fault Refusal :=
  match fetch s with
  | .resetEdge t => .next (applyReset t)
  | .noSample t => exec (encoderInstr t) t
  | .sample i t => andThen (exec i t) (fun u => exec (encoderInstr u) u)
  | .beforeReset => .refused .beforeReset

/-- `s` with the word `w` of a table row where the next step fetches it: a one-byte row is an output-mode word (R77), a
two-byte row a key (R38). -/
def State.withFetchWord (s : State) (nbits w : Nat) : State :=
  if nbits ≤ 8 then placeOutMode s w else placeKey s w

end Sys2Proof.Machine
end

