-- ==== Sys2Proof/Machine/Ports.lean ====
section
/-! DEFINITION. The output ports of the block in the cycle about to be taken (spec/10_state.md R23). -/

namespace Sys2Proof.Machine

/-- The sample of the next cycle, if it is one with `sample_valid` = 1 and `rst` = 0: only then are the event outputs
functions of the registers and the sample (R23). -/
def presentedSample (s : State) : Option Sample :=
  match s.input with
  | [] => none
  | c :: _ => if c.rst then none else if c.sampleValid then some c.sample else none

/-- The event list an operation leaves; a stop (log entry 8) leaves none. -/
def resultEvents : Result → List Event
  | .next u => u.events
  | .fault _ => []
  | .refused _ => []

/-- The event list of the cycle about to be taken (R22, R23): the events of the operation the sample selects, and none in
a cycle that brings no sample or a reset. Before the first reset the registers are unspecified and the step is refused
(R101). What the event outputs show in such a cycle is left open: the model applies the same functions to whatever the
registers hold (DESIGN CHOICE, log entry 17). -/
def cycleEvents (s : State) : List Event :=
  match presentedSample s with
  | none => []
  | some b => resultEvents (exec (instrFor s b) s)

/-- The words of an event list, without their index: `word_out[k]` is the entry at place `k` (R23). -/
def eventWords : List Event → List Word
  | [] => []
  | .word _ w :: es => w :: eventWords es
  | .opened :: es => eventWords es
  | .closed :: es => eventWords es

/-- The output ports of R23; `w` is `CC_W`. `wordOut` is none, no value, in a cycle with a sample and `word_valid` = 0:
it means nothing then (DESIGN CHOICE, log entry 13). -/
structure Ports (w : Nat) where
  evtOpen       : Bool
  evtClose      : Bool
  wordValid     : Bool
  wordOut       : Option (List Word)
  faultOverflow : Bool
  dbgState      : BitVec 3
  dbgChannel    : BitVec w
  dbgBit        : BitVec 5
  dbgAcc        : List Word
  deriving DecidableEq, Repr

/-- `word_out[0..N_EMIT-1]` (R23): the words of the cycle's events, and 0 each in a cycle without a sample or with
`rst`. -/
def wordOutPort (s : State) : Option (List Word) :=
  match presentedSample s with
  | none => some (List.replicate s.cfg.nEmit 0)
  | some _ => if (eventWords (cycleEvents s)).isEmpty then none else some (eventWords (cycleEvents s))

/-- The ports as functions of the registers and of the cycle's sample (R23). -/
def ports (s : State) : Ports (ccW s.cfg.channels) :=
  { evtOpen := (cycleEvents s).contains .opened
    evtClose := (cycleEvents s).contains .closed
    wordValid := !(eventWords (cycleEvents s)).isEmpty
    wordOut := wordOutPort s
    faultOverflow := s.ctx.faultOverflow
    dbgState := stateCode s.ctx.state
    dbgChannel := BitVec.ofNat _ s.ctx.currentChannel
    dbgBit := BitVec.ofNat 5 s.ctx.currentBit
    dbgAcc := s.ctx.acc }

end Sys2Proof.Machine
end

