-- ==== Sys2Proof/Machine/Stimulus.lean ====
section
/-! DEFINITION. Stimulus: sample streams, pseudo-operations and capture files (spec/30_encoding.md R50, R51,
70_reset_and_hazards.md R110). -/

namespace Sys2Proof.Machine

/-- A sample stream as the cycles that present it, which is also how a capture file replays: byte `i` is sample `i`, all
eight bits, and nothing else (R108, R110). -/
def replay (bs : List Sample) : List Cycle := bs.map sampleCycle

/-- `BIT(b)` (R51). -/
def bitSamples (b : Bool) : List Sample := if b then [0x06, 0x04] else [0x02, 0x00]

/-- The bits of a word from bit `n - 1` down to bit 0. -/
def bitsDown (w : Word) : Nat → List Bool
  | 0 => []
  | n + 1 => w.getLsbD n :: bitsDown w n

/-- `WORD(w)`: 48 samples, most significant bit first (R51). -/
def wordSamples (w : Word) : List Sample := (bitsDown w 24).flatMap bitSamples

/-- `START` (R51). -/
def startSamples : List Sample := [0x01, 0x00]

/-- `TURN` (R51): the same two samples, met in FrameActive. -/
def turnSamples : List Sample := [0x01, 0x00]

end Sys2Proof.Machine
end

