-- ==== Sys2Proof/Machine/TransitionTable.lean ====
section
/-! DEFINITION. The TransitionTable as data and its lookup (spec/30_encoding.md R39 to R44, 40_transition_table.md R53),
with the packed ROM word (R41). -/

namespace Sys2Proof.Machine

/-- A rule: the five-tuple From, Mask, Match, To, Action of R39. -/
structure Rule where
  src     : DecoderState
  mask    : BitVec 3
  pattern : BitVec 3
  dst     : DecoderState
  action  : ActionKind
  deriving DecidableEq, Repr

/-- Rule 1, FRAME_OPEN (R43, R55). -/
def rule1 : Rule := ⟨.idle, 0b001, 0b001, .frameStart, .frameStart⟩

/-- Rule 2, FRAME_ARM (R43, R56). -/
def rule2 : Rule := ⟨.frameStart, 0b001, 0b000, .frameActive, .none⟩

/-- Rule 3, CLK_HIGH (R43, R57). -/
def rule3 : Rule := ⟨.frameActive, 0b010, 0b010, .dataBitActive, .none⟩

/-- Rule 4, BIT_SHIFT (R43, R58). -/
def rule4 : Rule := ⟨.dataBitActive, 0b010, 0b000, .frameActive, .dataBit⟩

/-- Rule 5, FRAME_TURN (R43, R59). -/
def rule5 : Rule := ⟨.frameActive, 0b001, 0b001, .frameStart, .frameEnd⟩

/-- The canonical rule set in declaration order: constant data (R43, 20_memory.md R35). -/
def ruleTable : List Rule := [rule1, rule2, rule3, rule4, rule5]

/-- A rule matches iff `state == From` and `(sample & Mask) == Match` (R39, R53). -/
def ruleMatches (q : DecoderState) (b : Sample) (r : Rule) : Bool :=
  q == r.src && (b &&& r.mask.setWidth 8) == r.pattern.setWidth 8

/-- The first rule that matches, if any (R53). -/
def lookup (q : DecoderState) (b : Sample) : Option Rule := ruleTable.find? (ruleMatches q b)

/-- The code of an action kind (R40, D4). -/
def actionCode : ActionKind → BitVec 2
  | .none => 0
  | .frameStart => 1
  | .dataBit => 2
  | .frameEnd => 3

/-- The ROM word of a rule: From 13:11, Mask 10:8, Match 7:5, To 4:2, Action 1:0 (R41). -/
def romWord (r : Rule) : BitVec 14 :=
  stateCode r.src ++ r.mask ++ r.pattern ++ stateCode r.dst ++ actionCode r.action

/-- The rule an operation of the table stands for; HOLD and the encoder operations stand for none (R43). -/
def ruleOf : Instr → Option Rule
  | .frameOpen _ _ _ => some rule1
  | .frameArm _ _ _ => some rule2
  | .clkHigh _ _ _ => some rule3
  | .bitShift _ _ _ => some rule4
  | .frameTurn _ _ _ => some rule5
  | .hold _ _ _ _ _ => none
  | .encBinary => none
  | .encHuman => none

end Sys2Proof.Machine
end

