-- ==== Sys2Proof/Machine/Feed.lean ====
section
/-! DEFINITION. The step as the spec's pseudocode gives it over the rule table (spec/41_decoder_actions.md R64, R65): the
clear version the instructions' meanings are compared with. -/

namespace Sys2Proof.Machine

/-- `apply(action, sample)` (R65). -/
def applyAction (a : ActionKind) (b : Sample) (s : State) : Result :=
  match a with
  | .none => onNone s
  | .frameStart => onFrameStart s
  | .dataBit => onDataBit (dataLine b) s
  | .frameEnd => onFrameEnd s

/-- `feed(sample)`: lookup, then action, then state (R64). -/
def feed (b : Sample) (s : State) : Result :=
  match lookup s.ctx.state b with
  | none => .next s
  | some r => andThen (applyAction r.action b s) (fun t => .next (setDecoderState r.dst t))

/-- The words of an event list, in order: what `feed` returns to a caller (R74). -/
def completedWords : List Event → List (Nat × Word)
  | [] => []
  | .word k w :: es => (k, w) :: completedWords es
  | .opened :: es => completedWords es
  | .closed :: es => completedWords es

/-- Capture data bits one after the other with on_data_bit (R68, R73). -/
def captureBits : List Bool → State → Result
  | [], s => .next s
  | d :: ds, s => andThen (onDataBit d s) (captureBits ds)

end Sys2Proof.Machine
end

