-- ==== Sys2Proof/Safety.lean ====
section
/-! DEFINITION. What a sound context and a safe run are: the invariants of spec/10_state.md R18, and the relations the
claims are stated with. -/

namespace Sys2Proof.Machine

/-- The invariants of R18 on a context with `channels` slots, and that there are `channels` slots (R14). Item 6, which
speaks of the bits captured so far, is a statement of its own (R73); item 7 is a statement about steps. -/
structure Context.Inv (channels : Nat) (c : Context) : Prop where
  /-- `acc` has `CHANNELS` elements (R14). -/
  slots      : c.acc.length = channels
  /-- Item 1. -/
  reachable  : c.state = .idle ∨ c.state = .frameStart ∨ c.state = .frameActive ∨ c.state = .dataBitActive
  /-- Item 2. -/
  channelLe  : c.currentChannel ≤ channels
  /-- Item 2. -/
  bitLt      : c.currentBit < bits
  /-- Item 3. -/
  partialLt  : ∀ a, c.acc[c.currentChannel]? = some a → a.toNat < 2 ^ c.currentBit
  /-- Item 4. -/
  parked     : c.currentChannel = channels → c.currentBit = 0
  /-- Item 5. -/
  boundary   : c.state = .idle ∨ c.state = .frameStart →
                 c.currentChannel = 0 ∧ c.currentBit = 0 ∧ c.acc[0]? = some 0
  /-- Item 8. -/
  idleClean  : c.state = .idle → c.faultOverflow = false

/-- A machine between steps of a run: legal parameters (R6), reset done (R102), R18, and nothing held over from the last
step (R21). -/
structure State.Inv (s : State) : Prop where
  legal    : s.cfg.Legal
  started  : s.wasReset = true
  context  : s.ctx.Inv s.cfg.channels
  noEvents : s.events = []
  noLost   : s.lost = []

/-- The next cycle presents sample `b`, and `rest` follows it. -/
def State.Presents (s : State) (b : Sample) (rest : List Cycle) : Prop :=
  ∃ lost, s.input = { rst := false, sampleValid := true, sample := b, lost := lost } :: rest

/-- What of a cycle the decoder can depend on: the two control inputs and sample bits 2:0 (R46). -/
def pins (c : Cycle) : Bool × Bool × BitVec 3 := (c.rst, c.sampleValid, c.sample.extractLsb' 0 3)

/-- Two machines that agree on everything but the output side: `OUT_MODE`, the layout, the sinks, what the sinks fail to
take, and sample bits 7:3 (R46, R77, R84). -/
structure State.SameDecoder (s t : State) : Prop where
  channels  : s.cfg.channels = t.cfg.channels
  nEmit     : s.cfg.nEmit = t.cfg.nEmit
  ctx       : s.ctx = t.ctx
  wasReset  : s.wasReset = t.wasReset
  input     : s.input.map pins = t.input.map pins
  events    : s.events = t.events
  presented : s.presented = t.presented

/-- Both outcomes are next states related by `r`, or the same stop. -/
def sameOutcome (r : State → State → Prop) : Result → Result → Prop
  | .next s, .next t => r s t
  | .fault e, .fault f => e = f
  | .refused e, .refused f => e = f
  | _, _ => False

/-- The number whose binary digits, most significant first, are the given bits (20_memory.md R28). -/
def msbValue (ds : List Bool) : Nat := ds.foldl (fun a d => 2 * a + d.toNat) 0

/-- The integer a decimal digit string stands for, if it is one. -/
def readDigits : List Char → Option Nat
  | [] => none
  | cs => if cs.all Char.isDigit then some (cs.foldl (fun a c => 10 * a + (c.toNat - 48)) 0) else none

/-- The integer a signed decimal text stands for, if it is one (42_output_encoder.md R81). -/
def readDecimal : List Char → Option Int
  | '-' :: cs => (readDigits cs).map (fun n => -(n : Int))
  | cs => (readDigits cs).map (fun n => (n : Int))

end Sys2Proof.Machine
end

