-- ==== Sys2Proof/Certificates/Slice0/Obligations.lean ====
section
/-! DEFINITION. The statements for the provers, from the numbered rules of spec/. -/

open Sys2Proof Sys2Proof.Machine

/-! ### Encoding and the table -/

/-- R37, R38, R43, R44, R77: no bit of an encoding is dropped. -/
def Obligations.DecodeOfEncodeIsTheInstruction : Prop :=
  ∀ i : Instr, i.wf = true → decode (encode i) = i

/-- R48: there is no illegal key; each selects one row, which is the row its word is encoded from. -/
def Obligations.EveryWordIsTheEncodingOfItsDecoding : Prop :=
  (∀ e : Encoding, encode (decode e) = e ∧ (decode e).wf = true) ∧
    ∀ k : Key, decode (.key k) ≠ .encBinary ∧ decode (.key k) ≠ .encHuman

/-- A sanity statement on a few words of R43, R44, R47 and R77. The bytes a word lies in, and that 0x800 and the mode word
2 are rejected, are the model's choice (log entry 15). -/
def Obligations.SpecWordsDecodeToTheirRows : Prop :=
  decodeTableWord 16 0x001 = some (.frameOpen 0 false false) ∧
    decodeTableWord 16 0x100 = some (.frameArm 0 false false) ∧
    decodeTableWord 16 0x202 = some (.clkHigh 0 false false) ∧
    decodeTableWord 16 0x300 = some (.bitShift 0 false false) ∧
    decodeTableWord 16 0x201 = some (.frameTurn 0 false false) ∧
    decodeTableWord 16 0x203 = some (.clkHigh 0 false true) ∧
    decodeTableWord 16 0x000 = some (.hold .idle 0 false false false) ∧
    decodeTableWord 16 0x7FD = some (.hold .reserved7 31 true false true) ∧
    decodeTableWord 8 0 = some .encBinary ∧ decodeTableWord 8 1 = some .encHuman ∧
    decodeTableWord 16 0x800 = none ∧ decodeTableWord 8 2 = none

/-- R39: matching the key with KMASK and KMATCH is matching the pair with From, Mask and Match. -/
def Obligations.KeyDecodingAgreesWithLookup : Prop :=
  ∀ (q : DecoderState) (b : Sample), ruleOf (decodeKey (lookupKey q b)) = lookup q b

/-- R44 on R43's table, with the step it fixes for the one overlap. That no other two rules share a From state is R44's
own inference from the From column of R43. -/
def Obligations.FirstMatchingRuleWins : Prop :=
  (∀ (q : DecoderState) (b : Sample) (r : Rule), lookup q b = some r ↔
      ∃ n : Nat, ruleTable[n]? = some r ∧ ruleMatches q b r = true ∧
        ∀ (m : Nat) (r' : Rule), m < n → ruleTable[m]? = some r' → ruleMatches q b r' = false) ∧
    (∀ (q : DecoderState) (b : Sample), lookup q b = none ↔ ∀ r ∈ ruleTable, ruleMatches q b r = false) ∧
    (∀ r ∈ ruleTable, ∀ r' ∈ ruleTable, r ≠ r' → r.src = r'.src →
      r.src = .frameActive ∧ (r = rule3 ∧ r' = rule5 ∨ r = rule5 ∧ r' = rule3)) ∧
    (∀ (q : DecoderState) (b : Sample), (ruleMatches q b rule3 = true ∧ ruleMatches q b rule5 = true) ↔
      q = .frameActive ∧ b.extractLsb' 0 2 = 0b11) ∧
    (∀ (s : State) (b : Sample), s.ctx.state = .frameActive → b.extractLsb' 0 2 = 0b11 →
      exec (instrFor s b) s = .next { s with ctx := { s.ctx with state := .dataBitActive } })

/-- The complete decode table, row by row, the five-tuples literally; the spec marks it (R45) as its own inference from
R43 and R44. -/
def Obligations.CompleteDecodeByState : Prop :=
  ∀ b : Sample,
    lookup .idle b =
        (if frameStrobe b then some ⟨.idle, 0b001, 0b001, .frameStart, .frameStart⟩ else none) ∧
      lookup .frameStart b =
        (if frameStrobe b then none else some ⟨.frameStart, 0b001, 0b000, .frameActive, .none⟩) ∧
      lookup .frameActive b =
        (if bitClock b then some ⟨.frameActive, 0b010, 0b010, .dataBitActive, .none⟩
         else if frameStrobe b then some ⟨.frameActive, 0b001, 0b001, .frameStart, .frameEnd⟩ else none) ∧
      lookup .dataBitActive b =
        (if bitClock b then none else some ⟨.dataBitActive, 0b010, 0b000, .frameActive, .dataBit⟩) ∧
      lookup .frameFirstBit b = none ∧ lookup .frameEnd b = none ∧ lookup .dataBitStart b = none ∧
      lookup .reserved7 b = none

/-- R41. -/
def Obligations.RomHoldsTheFiveRules : Prop :=
  (∀ r : Rule, (romWord r).extractLsb' 11 3 = stateCode r.src ∧ (romWord r).extractLsb' 8 3 = r.mask ∧
      (romWord r).extractLsb' 5 3 = r.pattern ∧ (romWord r).extractLsb' 2 3 = stateCode r.dst ∧
      (romWord r).extractLsb' 0 2 = actionCode r.action) ∧
    ruleTable.map romWord = [0x0125, 0x0908, 0x124C, 0x1A0A, 0x1127]

/-- R46. The machines compared differ only in the sample presented next. -/
def Obligations.IgnoredSampleBitsChangeNothing : Prop :=
  (∀ (s : State) (b b' : Sample) (lost : List Bool) (rest : List Cycle), b.extractLsb' 0 3 = b'.extractLsb' 0 3 →
      step { s with input := ⟨false, true, b, lost⟩ :: rest } =
        step { s with input := ⟨false, true, b', lost⟩ :: rest }) ∧
    (∀ (q : DecoderState) (b b' : Sample), b.extractLsb' 0 2 = b'.extractLsb' 0 2 → lookup q b = lookup q b') ∧
    (∀ (s : State) (b b' : Sample) (lost : List Bool) (rest : List Cycle), b.extractLsb' 0 2 = b'.extractLsb' 0 2 →
      lookup s.ctx.state b ≠ some rule4 →
      step { s with input := ⟨false, true, b, lost⟩ :: rest } =
        step { s with input := ⟨false, true, b', lost⟩ :: rest })

/-! ### The six rows over the key -/

/-- R55: completion, result and frame of frameOpen. -/
def Obligations.FrameOpenOpensAFrame : Prop :=
  (∀ (x : BitVec 5) (d c : Bool) (s : State), exec (.frameOpen x d c) s =
      .next { s with ctx := { s.ctx with state := .frameStart }, events := s.events ++ [.opened] }) ∧
    (∀ b : Sample, frameStrobe b = true →
      decodeKey (lookupKey .idle b) = .frameOpen (ignoredBits b) (dataLine b) (bitClock b)) ∧
    (∀ r ∈ ruleTable, r.dst ≠ .idle)

/-- R56: completion, result and frame of frameArm. -/
def Obligations.FrameArmConfirmsTheFrame : Prop :=
  (∀ (x : BitVec 5) (d c : Bool) (s : State), exec (.frameArm x d c) s =
      .next { s with ctx := { s.ctx with state := .frameActive } }) ∧
    (∀ b : Sample, frameStrobe b = false →
      decodeKey (lookupKey .frameStart b) = .frameArm (ignoredBits b) (dataLine b) (bitClock b)) ∧
    (∀ (s : State) (b : Sample), s.ctx.state = .frameStart → frameStrobe b = true →
      exec (instrFor s b) s = .next s)

/-- R57: completion, result and frame of clkHigh. -/
def Obligations.ClkHighRecordsTheClock : Prop :=
  (∀ (x : BitVec 5) (d strobe : Bool) (s : State), exec (.clkHigh x d strobe) s =
      .next { s with ctx := { s.ctx with state := .dataBitActive } }) ∧
    (∀ b : Sample, bitClock b = true →
      decodeKey (lookupKey .frameActive b) = .clkHigh (ignoredBits b) (dataLine b) (frameStrobe b))

/-- R58 and R68: completion, result and frame of bitShift on each path. The paths exclude each other. -/
def Obligations.BitShiftCapturesADataBit : Prop :=
  (∀ (x : BitVec 5) (d strobe : Bool) (s : State),
      (s.ctx.currentChannel = s.cfg.channels →
        exec (.bitShift x d strobe) s =
          .next { s with ctx := { s.ctx with faultOverflow := true, state := .frameActive } }) ∧
      (∀ a : Word, s.ctx.currentChannel ≠ s.cfg.channels → s.ctx.acc[s.ctx.currentChannel]? = some a →
        (s.ctx.currentBit + 1 ≠ 24 →
          exec (.bitShift x d strobe) s =
            .next { s with ctx := { s.ctx with
              acc := s.ctx.acc.set s.ctx.currentChannel ((a <<< 1) ||| (BitVec.ofBool d).setWidth 24)
              currentBit := s.ctx.currentBit + 1
              state := .frameActive } }) ∧
        (s.ctx.currentBit + 1 = 24 → s.ctx.currentChannel + 1 < s.cfg.channels →
          exec (.bitShift x d strobe) s =
            .next { s with ctx := { s.ctx with
              acc := (s.ctx.acc.set s.ctx.currentChannel ((a <<< 1) ||| (BitVec.ofBool d).setWidth 24)).set
                (s.ctx.currentChannel + 1) 0
              currentBit := 0
              currentChannel := s.ctx.currentChannel + 1
              state := .frameActive } }) ∧
        (s.ctx.currentBit + 1 = 24 → ¬ s.ctx.currentChannel + 1 < s.cfg.channels →
          exec (.bitShift x d strobe) s =
            .next { s with ctx := { s.ctx with
              acc := s.ctx.acc.set s.ctx.currentChannel ((a <<< 1) ||| (BitVec.ofBool d).setWidth 24)
              currentBit := 0
              currentChannel := s.ctx.currentChannel + 1
              state := .frameActive } }) ∧
        (s.ctx.Inv s.cfg.channels →
          ((a <<< 1) ||| (BitVec.ofBool d).setWidth 24).toNat = 2 * a.toNat + d.toNat))) ∧
    (∀ b : Sample, bitClock b = false →
      decodeKey (lookupKey .dataBitActive b) = .bitShift (ignoredBits b) (dataLine b) (frameStrobe b))

/-- R59 and R69: completion, result and frame of frameTurn. The hypothesis is the range of N_EMIT (R6) over the slots. -/
def Obligations.FrameTurnEmitsAndReopens : Prop :=
  (∀ (x : BitVec 5) (d c : Bool) (s : State), s.cfg.nEmit ≤ s.ctx.acc.length →
      exec (.frameTurn x d c) s =
        .next { s with
          events := s.events ++
            ((List.range s.cfg.nEmit).map (fun k => Event.word k (s.ctx.acc.getD k 0)) ++ [.closed, .opened])
          ctx := { s.ctx with
            currentChannel := 0
            currentBit := 0
            acc := s.ctx.acc.set 0 0
            state := .frameStart } }) ∧
    (∀ b : Sample, bitClock b = false → frameStrobe b = true →
      decodeKey (lookupKey .frameActive b) = .frameTurn (ignoredBits b) (dataLine b) (bitClock b))

/-- R60: completion, result and frame of hold. -/
def Obligations.HoldChangesNothing : Prop :=
  (∀ (q : DecoderState) (b : Sample), lookup q b = none ↔
      (q = .idle ∧ b.getLsbD 0 = false) ∨ (q = .frameStart ∧ b.getLsbD 0 = true) ∨
      (q = .frameActive ∧ b.extractLsb' 0 2 = 0b00) ∨ (q = .dataBitActive ∧ b.getLsbD 1 = true) ∨
      q = .frameFirstBit ∨ q = .frameEnd ∨ q = .dataBitStart ∨ q = .reserved7) ∧
    (∀ (q : DecoderState) (b : Sample), lookup q b = none →
      decodeKey (lookupKey q b) = .hold q (ignoredBits b) (dataLine b) (bitClock b) (frameStrobe b)) ∧
    (∀ (q : DecoderState) (x : BitVec 5) (d c strobe : Bool) (s : State),
      exec (.hold q x d c strobe) s = .next s)

/-- R87. -/
def Obligations.OverflowSetsTheFlagOnly : Prop :=
  (∀ (x : BitVec 5) (d strobe : Bool) (s : State), s.ctx.currentChannel = s.cfg.channels →
      exec (.bitShift x d strobe) s =
        .next { s with ctx := { s.ctx with faultOverflow := true, state := .frameActive } }) ∧
    (∀ (x : BitVec 5) (d strobe : Bool) (s : State), s.ctx.currentChannel = s.cfg.channels →
      s.ctx.faultOverflow = true →
      exec (.bitShift x d strobe) s = .next { s with ctx := { s.ctx with state := .frameActive } }) ∧
    (∀ (x : BitVec 5) (d c : Bool) (s t : State), exec (.frameTurn x d c) s = .next t →
      t.ctx.currentChannel = 0 ∧ t.ctx.currentBit = 0 ∧ t.ctx.faultOverflow = s.ctx.faultOverflow) ∧
    (∀ s t : State, step s = .next t → s.ctx.faultOverflow = true → t.ctx.faultOverflow = false →
      ∃ c rest, s.input = c :: rest ∧ c.rst = true)

/-- R26, R30; the stop is a DESIGN CHOICE of the model (log entry 8) in contexts no run has. -/
def Obligations.IndexOutOfRangeStops : Prop :=
  (∀ (x : BitVec 5) (d strobe : Bool) (s : State), s.ctx.currentChannel ≠ s.cfg.channels →
      s.ctx.acc.length ≤ s.ctx.currentChannel → exec (.bitShift x d strobe) s = .fault .slotOutOfRange) ∧
    (∀ (x : BitVec 5) (d c : Bool) (s : State), s.ctx.acc.length < s.cfg.nEmit →
      exec (.frameTurn x d c) s = .fault .emitOutOfRange)

/-- The 'Writes' lines of R55 to R60. -/
def Obligations.DecoderRowsWriteOnlyWhatTheyName : Prop :=
  (∀ (i : Instr) (s t : State), i ≠ .encBinary → i ≠ .encHuman → exec i s = .next t →
      t.cfg = s.cfg ∧ t.wasReset = s.wasReset ∧ t.input = s.input ∧ t.presented = s.presented ∧ t.lost = s.lost ∧
        t.byteSink = s.byteSink ∧ t.textSink = s.textSink) ∧
    (∀ (i : Instr) (s t : State), exec i s = .next t →
      (∃ x d c, i = .frameOpen x d c) ∨ (∃ x d c, i = .frameArm x d c) ∨ (∃ x d e, i = .clkHigh x d e) ∨
        (∃ q x d c e, i = .hold q x d c e) →
      t.ctx = { s.ctx with state := t.ctx.state }) ∧
    (∀ (i : Instr) (s t : State), exec i s = .next t →
      (∃ x d c, i = .frameArm x d c) ∨ (∃ x d e, i = .clkHigh x d e) ∨ (∃ x d e, i = .bitShift x d e) ∨
        (∃ q x d c e, i = .hold q x d c e) →
      t.events = s.events) ∧
    (∀ (x : BitVec 5) (d c : Bool) (s t : State), exec (.frameTurn x d c) s = .next t →
      t.ctx.faultOverflow = s.ctx.faultOverflow ∧ ∀ k, k ≠ 0 → t.ctx.acc[k]? = s.ctx.acc[k]?) ∧
    (∀ (x : BitVec 5) (d strobe : Bool) (s t : State), exec (.bitShift x d strobe) s = .next t →
      (s.ctx.faultOverflow = true → t.ctx.faultOverflow = true) ∧
        ∀ k, k ≠ s.ctx.currentChannel → k ≠ s.ctx.currentChannel + 1 → t.ctx.acc[k]? = s.ctx.acc[k]?)

/-! ### The output encoder -/

/-- R78, R79: completion, result and frame of encBinary. -/
def Obligations.EncBinaryWritesLittleEndianTriplets : Prop :=
  ∀ s : State, exec .encBinary s =
    .next { s with
      byteSink := s.byteSink ++ (takenEvents s.events s.lost).flatMap (fun e => match e with
        | .opened => []
        | .word _ w => [w.extractLsb' 0 8, w.extractLsb' 8 8, w.extractLsb' 16 8]
        | .closed => [])
      presented := s.presented ++ s.events
      events := []
      lost := [] }

/-- R81: completion, result and frame of encHuman. The gap after each item is a DESIGN CHOICE (log entry 10). -/
def Obligations.EncHumanWritesBracketsAndNumbers : Prop :=
  ∀ s : State, exec .encHuman s =
    .next { s with
      textSink := s.textSink ++ (takenEvents s.events s.lost).flatMap (fun e => match e with
        | .opened => '[' :: (if s.cfg.layout.eol.afterOpen then s.cfg.layout.eol.mark else s.cfg.layout.sep)
        | .word _ w => field s.cfg.layout (decimalText (signed24 w)) ++
            (if s.cfg.layout.eol.afterWord then s.cfg.layout.eol.mark else s.cfg.layout.sep)
        | .closed => ']' :: (if s.cfg.layout.eol.afterClose then s.cfg.layout.eol.mark else s.cfg.layout.sep))
      presented := s.presented ++ s.events
      events := []
      lost := [] }

/-- R84: 'a failed write loses the bytes or text of that event'. That the host flags failures per event is log entry 6. -/
def Obligations.SinkTakesAllButTheLostEvents : Prop :=
  (∀ es : List Event, takenEvents es [] = es) ∧
    ∀ (es : List Event) (ls : List Bool),
      takenEvents es ls = (es.zipIdx.filter (fun p => !(ls.getD p.2 false))).map Prod.fst

/-- R80, with the document's test values. The reading as a 32-bit sign extension is R80's sentence from general
knowledge, not in the source (93_implementation_defined.md G3). -/
def Obligations.SignedReadingOfAWord : Prop :=
  (∀ w : Word, signed24 w = (if w.getLsbD 23 then (w.toNat : Int) - 2 ^ 24 else (w.toNat : Int)) ∧
      -8388608 ≤ signed24 w ∧ signed24 w ≤ 8388607 ∧ signed24 w = (w.signExtend 32).toInt) ∧
    decimalText (signed24 0xFFFFFF) = ['-', '1'] ∧ decimalText (signed24 0x000001) = ['1'] ∧
    decimalText (signed24 0x800000) = ['-', '8', '3', '8', '8', '6', '0', '8']

/-- R82. -/
def Obligations.BinaryTripletRoundTrip : Prop :=
  ∀ w : Word, ∃ b0 b1 b2 : Byte, binaryBytes (.word 0 w) = [b0, b1, b2] ∧
    b0.setWidth 24 ||| (b1.setWidth 24 <<< 8) ||| (b2.setWidth 24 <<< 16) = w

/-- From R78 and R80, as the spec's own inference R83 says. -/
def Obligations.TheTwoModesCarryTheSameWord : Prop :=
  ∀ w : Word, signed24 w % 2 ^ 24 = (w.toNat : Int)

/-- R81: 'A model that wants to check the document's test values compares the number after stripping padding'. -/
def Obligations.DecimalTextReadsBack : Prop :=
  ∀ w : Word, readDecimal (decimalText (signed24 w)) = some (signed24 w)

/-- R81, D16. -/
def Obligations.NumberFieldHasFixedWidth : Prop :=
  ∀ (l : Layout) (w : Word), 8 ≤ l.fieldW →
    (field l (decimalText (signed24 w))).length = l.fieldW ∧
      ∃ n, field l (decimalText (signed24 w)) =
        (match l.padSide with
          | .left => List.replicate n l.padChar ++ decimalText (signed24 w)
          | .right => decimalText (signed24 w) ++ List.replicate n l.padChar)

/-- R77, R84: the encoder is a function of the events and OUT_MODE. -/
def Obligations.EncoderLeavesTheDecoderAlone : Prop :=
  ∀ s t : State,
    (exec .encBinary s = .next t ∨ exec .encHuman s = .next t →
      t.ctx = s.ctx ∧ t.cfg = s.cfg ∧ t.input = s.input ∧ t.wasReset = s.wasReset) ∧
    (exec .encBinary s = .next t → t.textSink = s.textSink ∧ s.byteSink <+: t.byteSink) ∧
    (exec .encHuman s = .next t → t.byteSink = s.byteSink ∧ s.textSink <+: t.textSink)

/-! ### The step -/

/-- R3, R64, R77; what the step adds around exec is log entry 4. -/
def Obligations.StepRunsTheDecodedInstruction : Prop :=
  ∀ (s : State) (b : Sample) (lost : List Bool) (rest : List Cycle),
    s.wasReset = true → s.input = ⟨false, true, b, lost⟩ :: rest →
    step s = andThen (exec (decodeKey (lookupKey s.ctx.state b)) { s with input := rest, lost := lost })
      (fun u => exec (decodeOutMode (outModeCode u.cfg.outMode)) u)

/-- R64, R65: the per-instruction meanings and the table-driven pseudocode agree. -/
def Obligations.InstructionsRefineFeed : Prop :=
  ∀ (s : State) (b : Sample), exec (decodeKey (lookupKey s.ctx.state b)) s = feed b s

/-- R98 (and R88, R108 for the exhausted source). -/
def Obligations.CycleWithoutSampleKeepsTheContext : Prop :=
  (∀ (s : State) (b : Sample) (lost : List Bool) (rest : List Cycle), s.input = ⟨false, false, b, lost⟩ :: rest →
      (∃ t, step s = .next t ∧ t.ctx = s.ctx) ∧
        (s.events = [] → step s = .next { s with input := rest, lost := [] })) ∧
    (∀ (s : State) (n : Nat), s.input = [] → s.events = [] → s.lost = [] → Sys2Proof.core.run n s = .next s)

/-- R100. That `presented` and both sinks survive a reset edge is the model's choice (log entry 5). -/
def Obligations.ResetEdgeClearsTheContext : Prop :=
  (∀ (s : State) (c : Cycle) (rest : List Cycle), s.input = c :: rest → c.rst = true →
      step s = .next { s with
          input := rest
          ctx := ⟨.idle, 0, 0, List.replicate s.cfg.channels 0, false⟩
          wasReset := true
          events := []
          lost := [] } ∧
        cycleEvents s = []) ∧
    (∀ s t : State, step s = .next t →
      (s.ctx.state ≠ .idle ∧ t.ctx.state = .idle) ∨ (s.ctx.faultOverflow = true ∧ t.ctx.faultOverflow = false) →
      ∃ c rest, s.input = c :: rest ∧ c.rst = true)

/-- R101: 'it should give no meaning to a step taken from an unreset context (refuse it)'; the mark wasReset is log entry 7. -/
def Obligations.SampleBeforeResetHasNoMeaning : Prop :=
  (∀ (s : State) (b : Sample) (rest : List Cycle), s.wasReset = false → s.Presents b rest →
      step s = .refused .beforeReset) ∧
    (∀ (s : State) (c : Cycle) (rest : List Cycle), s.input = c :: rest → c.rst = true →
      ∃ t, step s = .next t ∧ t.wasReset = true)

/-- R20. -/
def Obligations.ResetContextValues : Prop :=
  State.reset.ctx = ⟨.idle, 0, 0, [0, 0, 0, 0], false⟩ ∧
    ∀ n : Nat, Context.reset n = ⟨.idle, 0, 0, List.replicate n 0, false⟩

/-- R18: 'Each holds after reset'. -/
def Obligations.ResetMeetsTheInvariants : Prop :=
  State.reset.Inv ∧ ∀ s : State, s.cfg.Legal → (applyReset s).Inv

/-- R18, items 1 to 5 and 8; item 6 is MultiWordAssembly and item 7 is FaultFlagIsStickyAndUnread. -/
def Obligations.EveryStepKeepsTheInvariants : Prop :=
  ∀ s t : State, s.Inv → step s = .next t → t.Inv

/-- R64: 'The step is total and deterministic'; R48: every key is legal. -/
def Obligations.SoundMachineNeverStops : Prop :=
  ∀ s : State, s.Inv → ∃ t, step s = .next t

/-- R17. -/
def Obligations.FaultFlagIsStickyAndUnread : Prop :=
  (∀ s t : State, step s = .next t → s.ctx.faultOverflow = false → t.ctx.faultOverflow = true →
      ∃ b rest, s.Presents b rest ∧ s.ctx.state = .dataBitActive ∧ bitClock b = false ∧
        s.ctx.currentChannel = s.cfg.channels) ∧
    (∀ (s : State) (b : Sample) (rest : List Cycle), s.wasReset = true → s.Presents b rest →
      s.ctx.state = .dataBitActive → bitClock b = false → s.ctx.currentChannel = s.cfg.channels →
      ∃ t, step s = .next t ∧ t.ctx.faultOverflow = true) ∧
    (∀ s t : State, step s = .next t → s.ctx.faultOverflow = true → t.ctx.faultOverflow = false →
      ∃ c rest, s.input = c :: rest ∧ c.rst = true) ∧
    (∀ (s : State) (v : Bool),
      sameOutcome (fun t u => { t with ctx := { t.ctx with faultOverflow := u.ctx.faultOverflow } } = u)
        (step s) (step { s with ctx := { s.ctx with faultOverflow := v } })) ∧
    State.reset.ctx.faultOverflow = false

/-- From R55 to R60, as the spec's own inference R61 says; R47 for the unreachable codes. -/
def Obligations.StateGraphIsComplete : Prop :=
  ∀ (s t : State) (b : Sample) (rest : List Cycle), s.Presents b rest → step s = .next t →
    (match s.ctx.state with
      | .idle => t.ctx.state = (if frameStrobe b then .frameStart else .idle)
      | .frameStart => t.ctx.state = (if frameStrobe b then .frameStart else .frameActive)
      | .frameActive => t.ctx.state =
          (if bitClock b then .dataBitActive else if frameStrobe b then .frameStart else .frameActive)
      | .dataBitActive => t.ctx.state = (if bitClock b then .dataBitActive else .frameActive)
      | .frameFirstBit => t.ctx.state = .frameFirstBit
      | .frameEnd => t.ctx.state = .frameEnd
      | .dataBitStart => t.ctx.state = .dataBitStart
      | .reserved7 => t.ctx.state = .reserved7) ∧
    (t.ctx.state = .idle → s.ctx.state = .idle)

/-- R47. -/
def Obligations.UnreachableCodesAreStuck : Prop :=
  (∀ s t : State, s.ctx.state = .frameFirstBit ∨ s.ctx.state = .frameEnd ∨ s.ctx.state = .dataBitStart ∨
        s.ctx.state = .reserved7 → step s = .next t → (∀ c rest, s.input = c :: rest → c.rst = false) →
      t.ctx = s.ctx ∧ (s.events = [] → t.presented = s.presented)) ∧
    (∀ r ∈ ruleTable, ∀ q ∈ [DecoderState.frameFirstBit, .frameEnd, .dataBitStart, .reserved7],
      r.src ≠ q ∧ r.dst ≠ q) ∧
    (∀ s : State, s.Inv → s.ctx.state ∉ [DecoderState.frameFirstBit, .frameEnd, .dataBitStart, .reserved7])

/-- R22, R74. -/
def Obligations.EventListOfAStep : Prop :=
  ∀ (s : State) (b : Sample) (rest : List Cycle), s.Inv → s.Presents b rest →
    ∃ (t : State) (es : List Event), step s = .next t ∧ t.presented = s.presented ++ es ∧
      es = (if s.ctx.state = .idle ∧ frameStrobe b = true then [.opened]
        else if s.ctx.state = .frameActive ∧ bitClock b = false ∧ frameStrobe b = true then
          (List.range s.cfg.nEmit).map (fun k => Event.word k (s.ctx.acc.getD k 0)) ++ [.closed, .opened]
        else []) ∧
      completedWords es =
        (if s.ctx.state = .frameActive ∧ bitClock b = false ∧ frameStrobe b = true then
          (List.range s.cfg.nEmit).map (fun k => (k, s.ctx.acc.getD k 0))
        else [])

/-- R23, with the widths of R6, R15 and R16. That `word_out` has no value in a cycle with a sample and no Word event is the
model's choice (log entry 13). -/
def Obligations.PortsShowTheStep : Prop :=
  ∀ s t : State, s.Inv → step s = .next t →
    t.presented = s.presented ++ cycleEvents s ∧
      ((ports s).evtOpen = true ↔ Event.opened ∈ cycleEvents s) ∧
      ((ports s).evtClose = true ↔ Event.closed ∈ cycleEvents s) ∧
      ((ports s).wordValid = true ↔ ∃ k w, Event.word k w ∈ cycleEvents s) ∧
      (∀ ws, (ports s).wordOut = some ws →
        ((ports s).wordValid = true ∧ ∀ k w, ws[k]? = some w ↔ Event.word k w ∈ cycleEvents s) ∨
        ((∀ b rest, ¬ s.Presents b rest) ∧ ws = List.replicate s.cfg.nEmit 0)) ∧
      ((ports s).wordValid = true → ∃ ws, (ports s).wordOut = some ws ∧ ws.length = s.cfg.nEmit) ∧
      (ports s).faultOverflow = s.ctx.faultOverflow ∧ (ports s).dbgState = stateCode s.ctx.state ∧
      (ports s).dbgChannel.toNat = s.ctx.currentChannel ∧ (ports s).dbgBit.toNat = s.ctx.currentBit ∧
      (ports s).dbgAcc = s.ctx.acc ∧
      ((∀ b rest, ¬ s.Presents b rest) →
        (ports s).evtOpen = false ∧ (ports s).evtClose = false ∧ (ports s).wordValid = false ∧
          (ports s).wordOut = some (List.replicate s.cfg.nEmit 0))

/-- R77: 'the same sample stream gives the same contexts and the same events in both modes'; R84; R46. -/
def Obligations.OutputSideCannotInfluenceTheDecoder : Prop :=
  ∀ s t : State, s.SameDecoder t → sameOutcome State.SameDecoder (step s) (step t)

/-- R19: 'They are not state: no rule writes them'. -/
def Obligations.ConfigurationIsNeverWritten : Prop :=
  (∀ (i : Instr) (s t : State), exec i s = .next t → t.cfg = s.cfg) ∧
    ∀ s t : State, step s = .next t → t.cfg = s.cfg

/-- R33 (a), (b), (c); R109. -/
def Obligations.OutputsAndInputsKeepTheirOrder : Prop :=
  ∀ s t : State, step s = .next t →
    t.input = s.input.tail ∧ s.presented <+: t.presented ∧ s.byteSink <+: t.byteSink ∧ s.textSink <+: t.textSink

/-- R106 (b). -/
def Obligations.StrobeIsIgnoredWhileTheClockIsHigh : Prop :=
  ∀ (s : State) (b b' : Sample) (lost : List Bool) (rest : List Cycle), s.ctx.state = .dataBitActive →
    b.extractLsb' 1 2 = b'.extractLsb' 1 2 →
    step { s with input := ⟨false, true, b, lost⟩ :: rest } =
      step { s with input := ⟨false, true, b', lost⟩ :: rest }

/-- R103, R105, R107. -/
def Obligations.ClockIsIgnoredBeforeTheFrameIsActive : Prop :=
  ∀ (s : State) (b : Sample) (rest : List Cycle), s.Inv → s.Presents b rest →
    (s.ctx.state = .idle ∧ frameStrobe b = false) ∨ (s.ctx.state = .frameStart ∧ frameStrobe b = true) →
    step s = .next { s with input := rest }

/-! ### Word assembly -/

/-- R51. captureBits iterates on_data_bit (R68). -/
def Obligations.PseudoOperationsDoWhatTheyName : Prop :=
  (∀ (s : State) (b : Bool) (rest : List Cycle), s.Inv → s.ctx.state = .frameActive →
      s.input = replay (bitSamples b) ++ rest →
      ∃ t u, Sys2Proof.core.run 2 s = .next t ∧ onDataBit b s = .next u ∧ t.ctx = u.ctx ∧ t.input = rest ∧
        t.presented = s.presented) ∧
    (∀ (s : State) (w : Word) (rest : List Cycle), s.Inv → s.ctx.state = .frameActive →
      s.input = replay (wordSamples w) ++ rest →
      ∃ t u, Sys2Proof.core.run 48 s = .next t ∧ captureBits (bitsDown w 24) s = .next u ∧ t.ctx = u.ctx ∧
        t.input = rest ∧ t.presented = s.presented) ∧
    (∀ (s : State) (rest : List Cycle), s.Inv → s.ctx.state = .idle → s.input = replay startSamples ++ rest →
      ∃ t, Sys2Proof.core.run 2 s = .next t ∧ t.ctx = { s.ctx with state := .frameActive } ∧ t.input = rest ∧
        t.presented = s.presented ++ [.opened]) ∧
    (∀ (s : State) (rest : List Cycle), s.Inv → s.ctx.state = .frameActive →
      s.input = replay turnSamples ++ rest →
      ∃ t, Sys2Proof.core.run 2 s = .next t ∧ t.input = rest ∧
        t.ctx = { s.ctx with currentChannel := 0, currentBit := 0, acc := s.ctx.acc.set 0 0 } ∧
        t.presented = s.presented ++
          ((List.range s.cfg.nEmit).map (fun k => Event.word k (s.ctx.acc.getD k 0)) ++ [.closed, .opened]))

/-- From R57 to R59, R64, R68 and R69, as the spec's own inference R72 says (the property of the document as
90_conflicts.md C2 reads it). -/
def Obligations.SingleWordAssembly : Prop :=
  ∀ (s : State) (pairs : List (Sample × Sample)) (e : Sample) (rest : List Cycle), s.Inv →
    s.ctx.state = .frameActive → s.ctx.currentChannel = 0 → s.ctx.currentBit = 0 → pairs.length = 24 →
    (∀ p ∈ pairs, bitClock p.1 = true ∧ bitClock p.2 = false) → frameStrobe e = true → bitClock e = false →
    s.input = replay (pairs.flatMap (fun p => [p.1, p.2])) ++ sampleCycle e :: rest →
    ∃ (t u : State) (w : Word) (ws : List Word),
      Sys2Proof.core.run 48 s = .next t ∧ t.ctx.state = .frameActive ∧ t.ctx.currentChannel = 1 ∧
        t.ctx.currentBit = 0 ∧ t.ctx.acc[0]? = some w ∧
        w.toNat = msbValue (pairs.map (fun p => dataLine p.2)) ∧
        (1 < s.cfg.channels → t.ctx.acc[1]? = some 0) ∧ t.presented = s.presented ∧
      step t = .next u ∧ u.input = rest ∧ ws.length = s.cfg.nEmit ∧ ws[0]? = some w ∧
        u.presented = s.presented ++ (wordEvents 0 ws ++ [.closed, .opened])

/-- From R68 and R69, as the spec's own inference R73 says. captureBits iterates on_data_bit (R68). -/
def Obligations.MultiWordAssembly : Prop :=
  ∀ (s : State) (ds : List Bool), s.ctx.acc.length = s.cfg.channels → s.ctx.currentChannel = 0 →
    s.ctx.currentBit = 0 → s.ctx.acc[0]? = some 0 →
    ∃ t, captureBits ds s = .next t ∧
      t.ctx.currentChannel = min ds.length (s.cfg.channels * 24) / 24 ∧
      t.ctx.currentBit = min ds.length (s.cfg.channels * 24) % 24 ∧
      (∀ i, i * 24 < min ds.length (s.cfg.channels * 24) →
        ∃ w, t.ctx.acc[i]? = some w ∧ w.toNat = msbValue ((ds.drop (i * 24)).take 24)) ∧
      t.ctx.faultOverflow = (s.ctx.faultOverflow || decide (s.cfg.channels * 24 < ds.length)) ∧
      t.ctx.state = s.ctx.state ∧ t.events = s.events
end

