-- ==== Sys2Proof/Laws/Decode.lean ====
section
/-! SUPPORT. The small lemmas of the decoder: fields of samples and keys, and what the decoder does row by row. -/

namespace Sys2Proof

@[simp] theorem stateOfCode_stateCode (q : DecoderState) : stateOfCode (stateCode q) = q := by
  cases q <;> rfl

theorem stateCode_stateOfCode (k : BitVec 3) : stateCode (stateOfCode k) = k := by
  revert k; decide

@[simp] theorem frameStrobe_sampleOf (x : BitVec 5) (d c s : Bool) : frameStrobe (sampleOf x d c s) = s := by
  revert x d c s; decide

@[simp] theorem bitClock_sampleOf (x : BitVec 5) (d c s : Bool) : bitClock (sampleOf x d c s) = c := by
  revert x d c s; decide

@[simp] theorem dataLine_sampleOf (x : BitVec 5) (d c s : Bool) : dataLine (sampleOf x d c s) = d := by
  revert x d c s; decide

@[simp] theorem ignoredBits_sampleOf (x : BitVec 5) (d c s : Bool) : ignoredBits (sampleOf x d c s) = x := by
  revert x d c s; decide

/-- A sample is its four fields (R37). -/
theorem sampleOf_fields (b : Sample) : sampleOf (ignoredBits b) (dataLine b) (bitClock b) (frameStrobe b) = b := by
  revert b; decide

/-- The bits of a key: those of the sample below, those of the state code above (R38). -/
theorem getLsbD_lookupKey (q : DecoderState) (b : Sample) (i : Nat) :
    (lookupKey q b).getLsbD i = if i < 8 then b.getLsbD i else (stateCode q).getLsbD (i - 8) := by
  have h := BitVec.getLsbD_append (x := stateCode q) (y := b) (i := i)
  by_cases hi : i < 8
  · simpa [lookupKey, hi] using h
  · simpa [lookupKey, hi] using h

@[simp] theorem keySample_lookupKey (q : DecoderState) (b : Sample) : keySample (lookupKey q b) = b := by
  ext i hi
  simp [keySample, getLsbD_lookupKey, hi]

@[simp] theorem keyState_lookupKey (q : DecoderState) (b : Sample) : keyState (lookupKey q b) = q := by
  have h : (lookupKey q b).extractLsb' 8 3 = stateCode q := by
    ext i hi
    simp [getLsbD_lookupKey, BitVec.getLsbD_eq_getElem hi]
  simp [keyState, h]

/-- A key is its state code and its sample (R38). -/
theorem lookupKey_fields (k : Key) : lookupKey (keyState k) (keySample k) = k := by
  apply BitVec.eq_of_getLsbD_eq
  intro i hi
  rw [getLsbD_lookupKey]
  by_cases h : i < 8
  · simp [keySample, h]
  · have h3 : i - 8 < 3 := by omega
    have h8 : 8 + (i - 8) = i := by omega
    simp [h, keyState, stateCode_stateOfCode, h3, h8]

theorem lookupKey_inj {q r : DecoderState} {b p : Sample} : lookupKey q b = lookupKey r p ↔ q = r ∧ b = p := by
  constructor
  · intro h
    have hq := congrArg keyState h
    have hb := congrArg keySample h
    simp only [keyState_lookupKey, keySample_lookupKey] at hq hb
    exact ⟨hq, hb⟩
  · rintro ⟨rfl, rfl⟩
    rfl

/-- Masking a key with `{0b111, m}` keeps its state and masks its sample (R39). -/
theorem lookupKey_and (q : DecoderState) (b m : Sample) :
    lookupKey q b &&& lookupKey .reserved7 m = lookupKey q (b &&& m) := by
  apply BitVec.eq_of_getLsbD_eq
  intro i hi
  rw [BitVec.getLsbD_and, getLsbD_lookupKey, getLsbD_lookupKey, getLsbD_lookupKey]
  by_cases h : i < 8
  · simp [h]
  · have h3 : i - 8 = 0 ∨ i - 8 = 1 ∨ i - 8 = 2 := by omega
    rcases h3 with h3 | h3 | h3 <;> simp [h, h3, stateCode]

/-- `(key & KMASK) == KMATCH` says that the state is From and the masked sample is Match (R39). -/
theorem key_matches_iff (q r : DecoderState) (b m p : Sample) :
    lookupKey q b &&& lookupKey .reserved7 m = lookupKey r p ↔ q = r ∧ b &&& m = p := by
  rw [lookupKey_and, lookupKey_inj]

theorem and_strobe_set (b : Sample) : b &&& 0x01 = 0x01 ↔ frameStrobe b = true := by revert b; decide

theorem and_strobe_clear (b : Sample) : b &&& 0x01 = 0x00 ↔ frameStrobe b = false := by revert b; decide

theorem and_clock_set (b : Sample) : b &&& 0x02 = 0x02 ↔ bitClock b = true := by revert b; decide

theorem and_clock_clear (b : Sample) : b &&& 0x02 = 0x00 ↔ bitClock b = false := by revert b; decide

/-- The instruction a key selects, row by row in declaration order (R43, R44): the decoder unfolded once. -/
theorem decodeKey_lookupKey (q : DecoderState) (b : Sample) :
    decodeKey (lookupKey q b) =
      if q = .idle ∧ frameStrobe b = true then .frameOpen (ignoredBits b) (dataLine b) (bitClock b)
      else if q = .frameStart ∧ frameStrobe b = false then .frameArm (ignoredBits b) (dataLine b) (bitClock b)
      else if q = .frameActive ∧ bitClock b = true then .clkHigh (ignoredBits b) (dataLine b) (frameStrobe b)
      else if q = .dataBitActive ∧ bitClock b = false then .bitShift (ignoredBits b) (dataLine b) (frameStrobe b)
      else if q = .frameActive ∧ frameStrobe b = true then .frameTurn (ignoredBits b) (dataLine b) (bitClock b)
      else .hold q (ignoredBits b) (dataLine b) (bitClock b) (frameStrobe b) := by
  have h1 : lookupKey q b &&& 0x701#11 = 0x001#11 ↔ q = .idle ∧ frameStrobe b = true := by
    rw [← and_strobe_set]; exact key_matches_iff q .idle b 0x01 0x01
  have h2 : lookupKey q b &&& 0x701#11 = 0x100#11 ↔ q = .frameStart ∧ frameStrobe b = false := by
    rw [← and_strobe_clear]; exact key_matches_iff q .frameStart b 0x01 0x00
  have h3 : lookupKey q b &&& 0x702#11 = 0x202#11 ↔ q = .frameActive ∧ bitClock b = true := by
    rw [← and_clock_set]; exact key_matches_iff q .frameActive b 0x02 0x02
  have h4 : lookupKey q b &&& 0x702#11 = 0x300#11 ↔ q = .dataBitActive ∧ bitClock b = false := by
    rw [← and_clock_clear]; exact key_matches_iff q .dataBitActive b 0x02 0x00
  have h5 : lookupKey q b &&& 0x701#11 = 0x201#11 ↔ q = .frameActive ∧ frameStrobe b = true := by
    rw [← and_strobe_set]; exact key_matches_iff q .frameActive b 0x01 0x01
  simp only [decodeKey, keyRows, decodeRows, keySample_lookupKey, keyState_lookupKey]
  simp only [BitVec.ofNat_eq_ofNat, h1, h2, h3, h4, h5]

end Sys2Proof
end

