-- ==== Sys2Proof/Laws/State.lean ====
section
/-! SUPPORT. One lemma per field per update of the state, so that no proof unfolds a record update. -/

namespace Sys2Proof.Machine

@[simp] theorem emit_cfg (es : List Event) (s : State) : (emit es s).cfg = s.cfg := rfl
@[simp] theorem emit_wasReset (es : List Event) (s : State) : (emit es s).wasReset = s.wasReset := rfl
@[simp] theorem emit_input (es : List Event) (s : State) : (emit es s).input = s.input := rfl
@[simp] theorem emit_events (es : List Event) (s : State) : (emit es s).events = s.events ++ es := rfl
@[simp] theorem emit_presented (es : List Event) (s : State) : (emit es s).presented = s.presented := rfl
@[simp] theorem emit_lost (es : List Event) (s : State) : (emit es s).lost = s.lost := rfl
@[simp] theorem emit_byteSink (es : List Event) (s : State) : (emit es s).byteSink = s.byteSink := rfl
@[simp] theorem emit_textSink (es : List Event) (s : State) : (emit es s).textSink = s.textSink := rfl
@[simp] theorem emit_ctx (es : List Event) (s : State) : (emit es s).ctx = s.ctx := rfl

@[simp] theorem setDecoderState_cfg (q : DecoderState) (s : State) : (setDecoderState q s).cfg = s.cfg := rfl
@[simp] theorem setDecoderState_wasReset (q : DecoderState) (s : State) : (setDecoderState q s).wasReset = s.wasReset := rfl
@[simp] theorem setDecoderState_input (q : DecoderState) (s : State) : (setDecoderState q s).input = s.input := rfl
@[simp] theorem setDecoderState_events (q : DecoderState) (s : State) : (setDecoderState q s).events = s.events := rfl
@[simp] theorem setDecoderState_presented (q : DecoderState) (s : State) : (setDecoderState q s).presented = s.presented := rfl
@[simp] theorem setDecoderState_lost (q : DecoderState) (s : State) : (setDecoderState q s).lost = s.lost := rfl
@[simp] theorem setDecoderState_byteSink (q : DecoderState) (s : State) : (setDecoderState q s).byteSink = s.byteSink := rfl
@[simp] theorem setDecoderState_textSink (q : DecoderState) (s : State) : (setDecoderState q s).textSink = s.textSink := rfl
@[simp] theorem setDecoderState_state (q : DecoderState) (s : State) : (setDecoderState q s).ctx.state = q := rfl
@[simp] theorem setDecoderState_currentChannel (q : DecoderState) (s : State) : (setDecoderState q s).ctx.currentChannel = s.ctx.currentChannel := rfl
@[simp] theorem setDecoderState_currentBit (q : DecoderState) (s : State) : (setDecoderState q s).ctx.currentBit = s.ctx.currentBit := rfl
@[simp] theorem setDecoderState_acc (q : DecoderState) (s : State) : (setDecoderState q s).ctx.acc = s.ctx.acc := rfl
@[simp] theorem setDecoderState_faultOverflow (q : DecoderState) (s : State) : (setDecoderState q s).ctx.faultOverflow = s.ctx.faultOverflow := rfl

@[simp] theorem writeSlot_cfg (i : Nat) (w : Word) (s : State) : (writeSlot i w s).cfg = s.cfg := rfl
@[simp] theorem writeSlot_wasReset (i : Nat) (w : Word) (s : State) : (writeSlot i w s).wasReset = s.wasReset := rfl
@[simp] theorem writeSlot_input (i : Nat) (w : Word) (s : State) : (writeSlot i w s).input = s.input := rfl
@[simp] theorem writeSlot_events (i : Nat) (w : Word) (s : State) : (writeSlot i w s).events = s.events := rfl
@[simp] theorem writeSlot_presented (i : Nat) (w : Word) (s : State) : (writeSlot i w s).presented = s.presented := rfl
@[simp] theorem writeSlot_lost (i : Nat) (w : Word) (s : State) : (writeSlot i w s).lost = s.lost := rfl
@[simp] theorem writeSlot_byteSink (i : Nat) (w : Word) (s : State) : (writeSlot i w s).byteSink = s.byteSink := rfl
@[simp] theorem writeSlot_textSink (i : Nat) (w : Word) (s : State) : (writeSlot i w s).textSink = s.textSink := rfl
@[simp] theorem writeSlot_state (i : Nat) (w : Word) (s : State) : (writeSlot i w s).ctx.state = s.ctx.state := rfl
@[simp] theorem writeSlot_currentChannel (i : Nat) (w : Word) (s : State) : (writeSlot i w s).ctx.currentChannel = s.ctx.currentChannel := rfl
@[simp] theorem writeSlot_currentBit (i : Nat) (w : Word) (s : State) : (writeSlot i w s).ctx.currentBit = s.ctx.currentBit := rfl
@[simp] theorem writeSlot_acc (i : Nat) (w : Word) (s : State) : (writeSlot i w s).ctx.acc = s.ctx.acc.set i w := rfl
@[simp] theorem writeSlot_faultOverflow (i : Nat) (w : Word) (s : State) : (writeSlot i w s).ctx.faultOverflow = s.ctx.faultOverflow := rfl

@[simp] theorem setCursors_cfg (c b : Nat) (s : State) : (setCursors c b s).cfg = s.cfg := rfl
@[simp] theorem setCursors_wasReset (c b : Nat) (s : State) : (setCursors c b s).wasReset = s.wasReset := rfl
@[simp] theorem setCursors_input (c b : Nat) (s : State) : (setCursors c b s).input = s.input := rfl
@[simp] theorem setCursors_events (c b : Nat) (s : State) : (setCursors c b s).events = s.events := rfl
@[simp] theorem setCursors_presented (c b : Nat) (s : State) : (setCursors c b s).presented = s.presented := rfl
@[simp] theorem setCursors_lost (c b : Nat) (s : State) : (setCursors c b s).lost = s.lost := rfl
@[simp] theorem setCursors_byteSink (c b : Nat) (s : State) : (setCursors c b s).byteSink = s.byteSink := rfl
@[simp] theorem setCursors_textSink (c b : Nat) (s : State) : (setCursors c b s).textSink = s.textSink := rfl
@[simp] theorem setCursors_state (c b : Nat) (s : State) : (setCursors c b s).ctx.state = s.ctx.state := rfl
@[simp] theorem setCursors_currentChannel (c b : Nat) (s : State) : (setCursors c b s).ctx.currentChannel = c := rfl
@[simp] theorem setCursors_currentBit (c b : Nat) (s : State) : (setCursors c b s).ctx.currentBit = b := rfl
@[simp] theorem setCursors_acc (c b : Nat) (s : State) : (setCursors c b s).ctx.acc = s.ctx.acc := rfl
@[simp] theorem setCursors_faultOverflow (c b : Nat) (s : State) : (setCursors c b s).ctx.faultOverflow = s.ctx.faultOverflow := rfl

@[simp] theorem raiseChannelOverflow_cfg (s : State) : (raiseChannelOverflow s).cfg = s.cfg := rfl
@[simp] theorem raiseChannelOverflow_wasReset (s : State) : (raiseChannelOverflow s).wasReset = s.wasReset := rfl
@[simp] theorem raiseChannelOverflow_input (s : State) : (raiseChannelOverflow s).input = s.input := rfl
@[simp] theorem raiseChannelOverflow_events (s : State) : (raiseChannelOverflow s).events = s.events := rfl
@[simp] theorem raiseChannelOverflow_presented (s : State) : (raiseChannelOverflow s).presented = s.presented := rfl
@[simp] theorem raiseChannelOverflow_lost (s : State) : (raiseChannelOverflow s).lost = s.lost := rfl
@[simp] theorem raiseChannelOverflow_byteSink (s : State) : (raiseChannelOverflow s).byteSink = s.byteSink := rfl
@[simp] theorem raiseChannelOverflow_textSink (s : State) : (raiseChannelOverflow s).textSink = s.textSink := rfl
@[simp] theorem raiseChannelOverflow_state (s : State) : (raiseChannelOverflow s).ctx.state = s.ctx.state := rfl
@[simp] theorem raiseChannelOverflow_currentChannel (s : State) : (raiseChannelOverflow s).ctx.currentChannel = s.ctx.currentChannel := rfl
@[simp] theorem raiseChannelOverflow_currentBit (s : State) : (raiseChannelOverflow s).ctx.currentBit = s.ctx.currentBit := rfl
@[simp] theorem raiseChannelOverflow_acc (s : State) : (raiseChannelOverflow s).ctx.acc = s.ctx.acc := rfl
@[simp] theorem raiseChannelOverflow_faultOverflow (s : State) : (raiseChannelOverflow s).ctx.faultOverflow = true := rfl

@[simp] theorem applyReset_cfg (s : State) : (applyReset s).cfg = s.cfg := rfl
@[simp] theorem applyReset_wasReset (s : State) : (applyReset s).wasReset = true := rfl
@[simp] theorem applyReset_input (s : State) : (applyReset s).input = s.input := rfl
@[simp] theorem applyReset_events (s : State) : (applyReset s).events = [] := rfl
@[simp] theorem applyReset_presented (s : State) : (applyReset s).presented = s.presented := rfl
@[simp] theorem applyReset_lost (s : State) : (applyReset s).lost = [] := rfl
@[simp] theorem applyReset_byteSink (s : State) : (applyReset s).byteSink = s.byteSink := rfl
@[simp] theorem applyReset_textSink (s : State) : (applyReset s).textSink = s.textSink := rfl
@[simp] theorem applyReset_state (s : State) : (applyReset s).ctx.state = .idle := rfl
@[simp] theorem applyReset_currentChannel (s : State) : (applyReset s).ctx.currentChannel = 0 := rfl
@[simp] theorem applyReset_currentBit (s : State) : (applyReset s).ctx.currentBit = 0 := rfl
@[simp] theorem applyReset_acc (s : State) : (applyReset s).ctx.acc = List.replicate s.cfg.channels 0 := rfl
@[simp] theorem applyReset_faultOverflow (s : State) : (applyReset s).ctx.faultOverflow = false := rfl

@[simp] theorem present_cfg (s : State) : (present s).cfg = s.cfg := rfl
@[simp] theorem present_wasReset (s : State) : (present s).wasReset = s.wasReset := rfl
@[simp] theorem present_input (s : State) : (present s).input = s.input := rfl
@[simp] theorem present_events (s : State) : (present s).events = [] := rfl
@[simp] theorem present_presented (s : State) : (present s).presented = s.presented ++ s.events := rfl
@[simp] theorem present_lost (s : State) : (present s).lost = [] := rfl
@[simp] theorem present_byteSink (s : State) : (present s).byteSink = s.byteSink := rfl
@[simp] theorem present_textSink (s : State) : (present s).textSink = s.textSink := rfl
@[simp] theorem present_ctx (s : State) : (present s).ctx = s.ctx := rfl

end Sys2Proof.Machine
end

