-- ==== Sys2Proof/Laws/Ops.lean ====
section
/-! SUPPORT. One lemma per shared operation that says once everything it can do. -/

namespace Sys2Proof.Machine

@[simp] theorem andThen_next (s : State) (f : State → Result) : andThen (.next s) f = f s := rfl

@[simp] theorem andThen_fault (e : Fault) (f : State → Result) : andThen (.fault e) f = .fault e := rfl

@[simp] theorem andThen_refused (e : Refusal) (f : State → Result) : andThen (.refused e) f = .refused e := rfl

/-- A sequence answers a next state exactly when both parts do. -/
theorem andThen_eq_next {r : Result} {f : State → Result} {t : State} :
    andThen r f = .next t ↔ ∃ u, r = .next u ∧ f u = .next t := by
  cases r <;> simp [andThen]

theorem takeRule_eq_next {act : State → Result} {q : DecoderState} {s t : State} :
    takeRule act q s = .next t ↔ ∃ u, act s = .next u ∧ t = setDecoderState q u := by
  rw [takeRule, andThen_eq_next]
  constructor
  · rintro ⟨u, hu, h⟩
    cases h
    exact ⟨u, hu, rfl⟩
  · rintro ⟨u, hu, rfl⟩
    exact ⟨u, hu, rfl⟩

theorem allSlotsFull_iff (s : State) : allSlotsFull s = true ↔ s.ctx.currentChannel = s.cfg.channels := by
  simp [allSlotsFull]

/-- The overflow path of on_data_bit (R68, R87). -/
theorem onDataBit_full (d : Bool) {s : State} (h : s.ctx.currentChannel = s.cfg.channels) :
    onDataBit d s = .next (raiseChannelOverflow s) := by
  simp [onDataBit, allSlotsFull, h]

/-- A captured bit that does not fill its slot (R68). -/
theorem onDataBit_inside (d : Bool) {s : State} {a : Word} (h : s.ctx.currentChannel ≠ s.cfg.channels)
    (ha : s.ctx.acc[s.ctx.currentChannel]? = some a) (hb : s.ctx.currentBit + 1 ≠ bits) :
    onDataBit d s = .next (setCursors s.ctx.currentChannel (s.ctx.currentBit + 1)
      (writeSlot s.ctx.currentChannel (shiftIn a d) s)) := by
  simp only [onDataBit, allSlotsFull, cursorSlot, readSlot, ha, beq_eq_false_iff_ne.2 h, Bool.false_eq_true, if_false]
  unfold advanceCursor
  rw [if_neg (show ¬ (writeSlot s.ctx.currentChannel (shiftIn a d) s).ctx.currentBit + 1 = bits from hb)]
  rfl

/-- A captured bit that fills a slot before the last one opens the next slot (R68). -/
theorem onDataBit_fills (d : Bool) {s : State} {a : Word} (h : s.ctx.currentChannel ≠ s.cfg.channels)
    (ha : s.ctx.acc[s.ctx.currentChannel]? = some a) (hb : s.ctx.currentBit + 1 = bits)
    (hn : s.ctx.currentChannel + 1 < s.cfg.channels) :
    onDataBit d s = .next (writeSlot (s.ctx.currentChannel + 1) 0 (setCursors (s.ctx.currentChannel + 1) 0
      (writeSlot s.ctx.currentChannel (shiftIn a d) s))) := by
  simp only [onDataBit, allSlotsFull, cursorSlot, readSlot, ha, beq_eq_false_iff_ne.2 h, Bool.false_eq_true, if_false]
  unfold advanceCursor
  rw [if_pos (show (writeSlot s.ctx.currentChannel (shiftIn a d) s).ctx.currentBit + 1 = bits from hb),
    if_pos (show (writeSlot s.ctx.currentChannel (shiftIn a d) s).ctx.currentChannel + 1 <
      (writeSlot s.ctx.currentChannel (shiftIn a d) s).cfg.channels from hn)]
  rfl

/-- A captured bit that fills the last slot parks the channel cursor (R68 corner case 2). -/
theorem onDataBit_parks (d : Bool) {s : State} {a : Word} (h : s.ctx.currentChannel ≠ s.cfg.channels)
    (ha : s.ctx.acc[s.ctx.currentChannel]? = some a) (hb : s.ctx.currentBit + 1 = bits)
    (hn : ¬ s.ctx.currentChannel + 1 < s.cfg.channels) :
    onDataBit d s = .next (setCursors (s.ctx.currentChannel + 1) 0
      (writeSlot s.ctx.currentChannel (shiftIn a d) s)) := by
  simp only [onDataBit, allSlotsFull, cursorSlot, readSlot, ha, beq_eq_false_iff_ne.2 h, Bool.false_eq_true, if_false]
  unfold advanceCursor
  rw [if_pos (show (writeSlot s.ctx.currentChannel (shiftIn a d) s).ctx.currentBit + 1 = bits from hb),
    if_neg (show ¬ (writeSlot s.ctx.currentChannel (shiftIn a d) s).ctx.currentChannel + 1 <
      (writeSlot s.ctx.currentChannel (shiftIn a d) s).cfg.channels from hn)]
  rfl

/-- The one stop of on_data_bit: a cursor that addresses no slot (R26, log entry 8). -/
theorem onDataBit_outOfRange (d : Bool) {s : State} (h : s.ctx.currentChannel ≠ s.cfg.channels)
    (ha : s.ctx.acc[s.ctx.currentChannel]? = none) : onDataBit d s = .fault .slotOutOfRange := by
  simp only [onDataBit, allSlotsFull, cursorSlot, readSlot, ha, beq_eq_false_iff_ne.2 h, Bool.false_eq_true, if_false]

/-- Everything on_data_bit can answer as a next state: overflow, a bit inside a slot, a slot filled, the last slot
filled. -/
theorem onDataBit_eq_next {d : Bool} {s t : State} (h : onDataBit d s = .next t) :
    (s.ctx.currentChannel = s.cfg.channels ∧ t = raiseChannelOverflow s) ∨
      ∃ a, s.ctx.currentChannel ≠ s.cfg.channels ∧ s.ctx.acc[s.ctx.currentChannel]? = some a ∧
        ((s.ctx.currentBit + 1 ≠ bits ∧
            t = setCursors s.ctx.currentChannel (s.ctx.currentBit + 1)
              (writeSlot s.ctx.currentChannel (shiftIn a d) s)) ∨
          (s.ctx.currentBit + 1 = bits ∧ s.ctx.currentChannel + 1 < s.cfg.channels ∧
            t = writeSlot (s.ctx.currentChannel + 1) 0 (setCursors (s.ctx.currentChannel + 1) 0
              (writeSlot s.ctx.currentChannel (shiftIn a d) s))) ∨
          (s.ctx.currentBit + 1 = bits ∧ ¬ s.ctx.currentChannel + 1 < s.cfg.channels ∧
            t = setCursors (s.ctx.currentChannel + 1) 0 (writeSlot s.ctx.currentChannel (shiftIn a d) s))) := by
  by_cases hc : s.ctx.currentChannel = s.cfg.channels
  · rw [onDataBit_full d hc] at h
    cases h
    exact .inl ⟨hc, rfl⟩
  · cases ha : s.ctx.acc[s.ctx.currentChannel]? with
    | none =>
      rw [onDataBit_outOfRange d hc ha] at h
      cases h
    | some a =>
      refine .inr ⟨a, hc, rfl, ?_⟩
      by_cases hb : s.ctx.currentBit + 1 = bits
      · by_cases hn : s.ctx.currentChannel + 1 < s.cfg.channels
        · rw [onDataBit_fills d hc ha hb hn] at h
          cases h
          exact .inr (.inl ⟨hb, hn, rfl⟩)
        · rw [onDataBit_parks d hc ha hb hn] at h
          cases h
          exact .inr (.inr ⟨hb, hn, rfl⟩)
      · rw [onDataBit_inside d hc ha hb] at h
        cases h
        exact .inl ⟨hb, rfl⟩

/-- on_data_bit writes the context only. -/
theorem onDataBit_outside {d : Bool} {s t : State} (h : onDataBit d s = .next t) : t = { s with ctx := t.ctx } := by
  obtain ⟨_, rfl⟩ | ⟨a, _, _, ⟨_, rfl⟩ | ⟨_, _, rfl⟩ | ⟨_, _, rfl⟩⟩ := onDataBit_eq_next h <;> rfl

/-- Everything on_frame_end can answer as a next state (R69). -/
theorem onFrameEnd_eq_next {s t : State} :
    onFrameEnd s = .next t ↔ s.cfg.nEmit ≤ s.ctx.acc.length ∧
      t = writeSlot 0 0 (setCursors 0 0 (emit (emitOperands s ++ [.closed, .opened]) s)) := by
  unfold onFrameEnd
  split <;> simp_all [eq_comm]

/-- Shifting a bit into a word whose top bit is clear loses nothing (R70). -/
theorem shiftIn_toNat {a : Word} (d : Bool) (h : a.toNat < 2 ^ 23) : (shiftIn a d).toNat = 2 * a.toNat + d.toNat := by
  have h1 : (a <<< 1).toNat = 2 * a.toNat := by
    rw [BitVec.toNat_shiftLeft, Nat.shiftLeft_eq, Nat.mod_eq_of_lt (by omega)]
    omega
  have h2 : (dataOperand d).toNat = d.toNat := by cases d <;> rfl
  have h3 : 2 * a.toNat = a.toNat <<< 1 := by rw [Nat.shiftLeft_eq]; omega
  rw [shiftIn, BitVec.toNat_or, h1, h2, h3, Nat.shiftLeft_add_eq_or_of_lt (by cases d <;> decide)]

@[simp] theorem wordEvents_length (k : Nat) (ws : List Word) : (wordEvents k ws).length = ws.length := by
  induction ws generalizing k with
  | nil => rfl
  | cons w ws ih => simp [wordEvents, ih]

/-- Place `i` of the emitted words holds index `k + i` and the `i`-th word (R69). -/
theorem wordEvents_getElem? (k i : Nat) (ws : List Word) :
    (wordEvents k ws)[i]? = (ws[i]?).map (Event.word (k + i)) := by
  induction ws generalizing k i with
  | nil => simp [wordEvents]
  | cons w ws ih =>
    cases i with
    | zero => simp [wordEvents]
    | succ i =>
      have hk : k + 1 + i = k + (i + 1) := by omega
      simp [wordEvents, ih, hk]

end Sys2Proof.Machine
end

