-- ==== Sys2Proof/Laws/PerInstr.lean ====
section
/-! SUPPORT. Per-instruction facts: the word an instruction is encoded as lies in its row of spec/opcode_table.json. -/

namespace Sys2Proof.Laws.RowMatch

/-- `k` has the fixed bits of the row with the given mask and match. -/
def InRow (e : Encoding) (mask pattern : Key) : Prop := ∃ k, e = .key k ∧ k &&& mask = pattern

/-- The encoded word of `i` has the fixed bits of its row (30_encoding.md R43, 42_output_encoder.md R77). -/
def Statement (i : Instr) : Prop :=
  match i with
  | .frameOpen _ _ _ => InRow (encode i) 0x701 0x001
  | .frameArm _ _ _ => InRow (encode i) 0x701 0x100
  | .clkHigh _ _ _ => InRow (encode i) 0x702 0x202
  | .bitShift _ _ _ => InRow (encode i) 0x702 0x300
  | .frameTurn _ _ _ => InRow (encode i) 0x701 0x201
  | .hold _ _ _ _ _ => InRow (encode i) 0x000 0x000
  | .encBinary => encode i = .outMode 0
  | .encHuman => encode i = .outMode 1

theorem frameOpen (x : BitVec 5) (d c : Bool) : Statement (.frameOpen x d c) :=
  ⟨_, rfl, (key_matches_iff .idle .idle _ 0x01 0x01).2 ⟨rfl, (and_strobe_set _).2 (frameStrobe_sampleOf x d c true)⟩⟩

theorem frameArm (x : BitVec 5) (d c : Bool) : Statement (.frameArm x d c) :=
  ⟨_, rfl, (key_matches_iff .frameStart .frameStart _ 0x01 0x00).2
    ⟨rfl, (and_strobe_clear _).2 (frameStrobe_sampleOf x d c false)⟩⟩

theorem clkHigh (x : BitVec 5) (d s : Bool) : Statement (.clkHigh x d s) :=
  ⟨_, rfl, (key_matches_iff .frameActive .frameActive _ 0x02 0x02).2
    ⟨rfl, (and_clock_set _).2 (bitClock_sampleOf x d true s)⟩⟩

theorem bitShift (x : BitVec 5) (d s : Bool) : Statement (.bitShift x d s) :=
  ⟨_, rfl, (key_matches_iff .dataBitActive .dataBitActive _ 0x02 0x00).2
    ⟨rfl, (and_clock_clear _).2 (bitClock_sampleOf x d false s)⟩⟩

theorem frameTurn (x : BitVec 5) (d c : Bool) : Statement (.frameTurn x d c) :=
  ⟨_, rfl, (key_matches_iff .frameActive .frameActive _ 0x01 0x01).2
    ⟨rfl, (and_strobe_set _).2 (frameStrobe_sampleOf x d c true)⟩⟩

theorem hold (q : DecoderState) (x : BitVec 5) (d c s : Bool) : Statement (.hold q x d c s) :=
  ⟨_, rfl, BitVec.and_zero⟩

theorem encBinary : Statement .encBinary := rfl

theorem encHuman : Statement .encHuman := rfl

end Sys2Proof.Laws.RowMatch
end

