-- ==== Sys2Proof/Laws/Step.lean ====
section
/-! SUPPORT. What the encoder half of a step does, and the one inversion of the step. -/

namespace Sys2Proof.Machine

@[simp] theorem takenEvents_nil_lost (es : List Event) : takenEvents es [] = es := by
  induction es with
  | nil => rfl
  | cons e es ih => simp [takenEvents, ih]

@[simp] theorem takenEvents_nil (ls : List Bool) : takenEvents [] ls = [] := by
  cases ls <;> rfl

theorem encoderInstr_binary {s : State} (h : s.cfg.outMode = .binary) : encoderInstr s = .encBinary := by
  rw [encoderInstr, h]; rfl

theorem encoderInstr_human {s : State} (h : s.cfg.outMode = .human) : encoderInstr s = .encHuman := by
  rw [encoderInstr, h]; rfl

/-- The encoder operation always completes, presents the step's events and writes the sinks only (R77, R84). -/
theorem exec_encoder (s : State) :
    ∃ bs ts, exec (encoderInstr s) s = .next (present { s with byteSink := bs, textSink := ts }) := by
  cases h : s.cfg.outMode with
  | binary => rw [encoderInstr_binary h]; exact ⟨_, s.textSink, rfl⟩
  | human => rw [encoderInstr_human h]; exact ⟨s.byteSink, _, rfl⟩

theorem fetch_nil {s : State} (h : s.input = []) : fetch s = .noSample s := by
  simp only [fetch, h]

theorem fetch_reset {s : State} {c : Cycle} {rest : List Cycle} (h : s.input = c :: rest) (hr : c.rst = true) :
    fetch s = .resetEdge { s with input := rest, lost := c.lost } := by
  simp only [fetch, h, hr, if_true]

theorem fetch_idle {s : State} {c : Cycle} {rest : List Cycle} (h : s.input = c :: rest) (hr : c.rst = false)
    (hv : c.sampleValid = false) : fetch s = .noSample { s with input := rest, lost := c.lost } := by
  simp only [fetch, h, hr, hv, Bool.false_eq_true, if_false]

theorem fetch_sample {s : State} {c : Cycle} {rest : List Cycle} (h : s.input = c :: rest) (hr : c.rst = false)
    (hv : c.sampleValid = true) (hw : s.wasReset = true) :
    fetch s = .sample (instrFor s c.sample) { s with input := rest, lost := c.lost } := by
  simp only [fetch, h, hr, hv, hw, Bool.false_eq_true, if_false, if_true]

theorem fetch_beforeReset {s : State} {c : Cycle} {rest : List Cycle} (h : s.input = c :: rest) (hr : c.rst = false)
    (hv : c.sampleValid = true) (hw : s.wasReset = false) : fetch s = .beforeReset := by
  simp only [fetch, h, hr, hv, hw, Bool.false_eq_true, if_false, if_true]

/-- Everything a step can answer as a next state: a reset edge, a cycle without a sample, or a sample's instruction and
then the encoder. -/
theorem step_eq_next {s t : State} (h : step s = .next t) :
    (∃ c rest, s.input = c :: rest ∧ c.rst = true ∧
        t = applyReset { s with input := rest, lost := c.lost }) ∨
      (s.input = [] ∧ ∃ bs ts, t = present { s with byteSink := bs, textSink := ts }) ∨
      (∃ c rest, s.input = c :: rest ∧ c.rst = false ∧ c.sampleValid = false ∧
        ∃ bs ts, t = present { s with input := rest, lost := c.lost, byteSink := bs, textSink := ts }) ∨
      (∃ c rest u, s.input = c :: rest ∧ c.rst = false ∧ c.sampleValid = true ∧ s.wasReset = true ∧
        exec (instrFor s c.sample) { s with input := rest, lost := c.lost } = .next u ∧
        ∃ bs ts, t = present { u with byteSink := bs, textSink := ts }) := by
  cases hin : s.input with
  | nil =>
    obtain ⟨bs, ts, he⟩ := exec_encoder s
    simp only [step, fetch_nil hin, he] at h
    cases h
    exact .inr (.inl ⟨rfl, bs, ts, by rw [← hin]⟩)
  | cons c rest =>
    cases hr : c.rst with
    | true =>
      simp only [step, fetch_reset hin hr] at h
      cases h
      exact .inl ⟨c, rest, rfl, hr, rfl⟩
    | false =>
      cases hv : c.sampleValid with
      | false =>
        obtain ⟨bs, ts, he⟩ := exec_encoder { s with input := rest, lost := c.lost }
        simp only [step, fetch_idle hin hr hv, he] at h
        cases h
        exact .inr (.inr (.inl ⟨c, rest, rfl, hr, hv, bs, ts, rfl⟩))
      | true =>
        by_cases hw : s.wasReset = true
        · simp only [step, fetch_sample hin hr hv hw, andThen_eq_next] at h
          obtain ⟨u, hu, he⟩ := h
          obtain ⟨bs, ts, he'⟩ := exec_encoder u
          rw [he'] at he
          cases he
          exact .inr (.inr (.inr ⟨c, rest, u, rfl, hr, hv, hw, hu, bs, ts, rfl⟩))
        · simp only [step, fetch_beforeReset hin hr hv (by simpa using hw)] at h
          cases h

end Sys2Proof.Machine
end

