-- ==== Sys2Proof/Laws/Ports.lean ====
section
/-! SUPPORT. What the ports show, by the kind of cycle (spec/10_state.md R23). -/

namespace Sys2Proof.Machine

theorem presentedSample_eq_some {s : State} {b : Sample} :
    presentedSample s = some b ↔ ∃ rest, s.Presents b rest := by
  unfold presentedSample State.Presents
  rcases s.input with _ | ⟨⟨r, v, p, l⟩, rest⟩
  · simp
  · cases r <;> cases v <;> simp [eq_comm]

theorem presentedSample_eq_none {s : State} :
    presentedSample s = none ↔ ∀ b rest, ¬ s.Presents b rest := by
  rw [Option.eq_none_iff_forall_ne_some]
  simp only [ne_eq, presentedSample_eq_some, not_exists]

/-- In a cycle without a sample or with `rst` every event output is 0. -/
theorem ports_noSample {s : State} (h : presentedSample s = none) :
    cycleEvents s = [] ∧ (ports s).evtOpen = false ∧ (ports s).evtClose = false ∧ (ports s).wordValid = false ∧
      (ports s).wordOut = some (List.replicate s.cfg.nEmit 0) := by
  simp [ports, wordOutPort, cycleEvents, h, eventWords]

/-- In a cycle with a sample the ports show the events of the operation it selects. -/
theorem cycleEvents_sample {s : State} {b : Sample} (h : presentedSample s = some b) :
    cycleEvents s = resultEvents (exec (instrFor s b) s) := by
  simp only [cycleEvents, h]

/-- While `word_valid` is 1, `word_out` holds the words of the cycle's events. -/
theorem wordOutPort_of_words {s : State} (h : eventWords (cycleEvents s) ≠ []) :
    wordOutPort s = some (eventWords (cycleEvents s)) := by
  cases hp : presentedSample s with
  | none => exact absurd (by rw [(ports_noSample hp).1]; rfl) h
  | some b => simp [wordOutPort, hp, h]

/-- The events of an operation do not depend on the cycles still to come or on what the sink fails to take. -/
theorem resultEvents_exec_input (i : Instr) (s : State) (cs : List Cycle) (lost : List Bool) :
    resultEvents (exec i { s with input := cs, lost := lost }) = resultEvents (exec i s) := by
  cases i with
  | bitShift x d e =>
    have h : ∀ u : State, resultEvents (exec (.bitShift x d e) u) =
        (if u.ctx.currentChannel = u.cfg.channels ∨ (cursorSlot u).isSome then u.events else []) := by
      intro u
      simp only [exec, execBitShift, takeRule]
      cases hr : onDataBit d u with
      | next t =>
        have ht := onDataBit_outside hr
        have hc := onDataBit_eq_next hr
        rw [if_pos (by obtain ⟨h, _⟩ | ⟨a, _, h, _⟩ := hc <;> simp [h, cursorSlot, readSlot])]
        rw [andThen_next, ht]; rfl
      | fault f =>
        by_cases hc : u.ctx.currentChannel = u.cfg.channels
        · rw [onDataBit_full d hc] at hr; cases hr
        · cases hs : cursorSlot u with
          | none => simp [hc, resultEvents]
          | some a => simp [onDataBit, allSlotsFull, hc, hs] at hr
      | refused f => simp only [onDataBit] at hr; split at hr <;> [cases hr; (split at hr <;> cases hr)]
    rw [h, h]; rfl
  | frameTurn x d c =>
    simp only [exec, execFrameTurn, takeRule, onFrameEnd]
    split <;> rfl
  | _ => rfl

end Sys2Proof.Machine
end

