-- ==== Sys2Proof/Laws/Table.lean ====
section
/-! SUPPORT. The lookup unfolded once: when each rule of the table matches (spec/40_transition_table.md R53). -/

namespace Sys2Proof.Machine

theorem rule1_matches (q : DecoderState) (b : Sample) :
    ruleMatches q b rule1 = true ↔ q = .idle ∧ frameStrobe b = true := by
  rw [← and_strobe_set]; simp [ruleMatches, rule1]

theorem rule2_matches (q : DecoderState) (b : Sample) :
    ruleMatches q b rule2 = true ↔ q = .frameStart ∧ frameStrobe b = false := by
  rw [← and_strobe_clear]; simp [ruleMatches, rule2]

theorem rule3_matches (q : DecoderState) (b : Sample) :
    ruleMatches q b rule3 = true ↔ q = .frameActive ∧ bitClock b = true := by
  rw [← and_clock_set]; simp [ruleMatches, rule3]

theorem rule4_matches (q : DecoderState) (b : Sample) :
    ruleMatches q b rule4 = true ↔ q = .dataBitActive ∧ bitClock b = false := by
  rw [← and_clock_clear]; simp [ruleMatches, rule4]

theorem rule5_matches (q : DecoderState) (b : Sample) :
    ruleMatches q b rule5 = true ↔ q = .frameActive ∧ frameStrobe b = true := by
  rw [← and_strobe_set]; simp [ruleMatches, rule5]

/-- The first rule that matches, as a chain in declaration order. -/
theorem lookup_eq (q : DecoderState) (b : Sample) :
    lookup q b =
      if ruleMatches q b rule1 then some rule1 else if ruleMatches q b rule2 then some rule2
      else if ruleMatches q b rule3 then some rule3 else if ruleMatches q b rule4 then some rule4
      else if ruleMatches q b rule5 then some rule5 else none := by
  simp only [lookup, ruleTable, List.find?_cons, List.find?_nil]
  cases ruleMatches q b rule1 <;> cases ruleMatches q b rule2 <;> cases ruleMatches q b rule3 <;>
    cases ruleMatches q b rule4 <;> cases ruleMatches q b rule5 <;> rfl

end Sys2Proof.Machine
end

