-- ==== Sys2Proof/Tests/Slice0.lean ====
section
/-! SUPPORT. The model's own tests: expected results from spec/95_test_vectors.md and the encodings of
spec/30_encoding.md, and a witness for the hypotheses of every statement that has some. -/

namespace Sys2Proof.Tests

open Sys2Proof.Machine

/-! ### Helpers -/

/-- A machine with the given context and cycles to come, and the default parameters of R6. -/
def machine (q : DecoderState) (cc cb : Nat) (acc : List Word) (f : Bool) (input : List Cycle) : State :=
  { State.reset with ctx := ⟨q, cc, cb, acc, f⟩, input := input }

/-- The same machine with another number of emitted channels. -/
def emitting (n : Nat) (s : State) : State := { s with cfg := { s.cfg with nEmit := n } }

/-- The same machine in human-readable mode. -/
def human (s : State) : State := { s with cfg := { s.cfg with outMode := .human } }

/-- The next state, if there is one. -/
def nextOf : Result → Option State
  | .next s => some s
  | .fault _ => none
  | .refused _ => none

/-- The context of the next state and the events of the run, if there is a next state. -/
def seen (r : Result) : Option (Context × List Event) := (nextOf r).map (fun s => (s.ctx, s.presented))

/-! ### WellFormed refuses each ill-formed term (30_encoding.md R44, 40_transition_table.md R60) -/

theorem test_wf_refuses_frameTurn_with_the_clock_set : (Instr.frameTurn 0 false true).wf = false := by decide

theorem test_wf_refuses_hold_in_idle_with_the_strobe_set : (Instr.hold .idle 0 false false true).wf = false := by decide

theorem test_wf_refuses_hold_in_frameStart_with_the_strobe_clear :
    (Instr.hold .frameStart 0 false false false).wf = false := by decide

theorem test_wf_refuses_hold_in_frameActive_with_the_clock_set :
    (Instr.hold .frameActive 0 false true false).wf = false := by decide

theorem test_wf_refuses_hold_in_frameActive_with_the_strobe_set :
    (Instr.hold .frameActive 0 false false true).wf = false := by decide

theorem test_wf_refuses_hold_in_dataBitActive_with_the_clock_clear :
    (Instr.hold .dataBitActive 0 false false false).wf = false := by decide

/-! ### Words written out bit by bit: state code, x[4:0], D, C, S (R38, R43) -/

theorem test_decode_frameOpen : decodeTableWord 16 0b000_10110_1_0_1 = some (.frameOpen 0b10110 true false) := by decide

theorem test_decode_frameArm : decodeTableWord 16 0b001_00001_0_1_0 = some (.frameArm 0b00001 false true) := by decide

theorem test_decode_clkHigh : decodeTableWord 16 0b010_10000_1_1_0 = some (.clkHigh 0b10000 true false) := by decide

/-- Both rule 3 and rule 5 match: rule 3 is first (R44). -/
theorem test_decode_clkHigh_beats_frameTurn :
    decodeTableWord 16 0b010_00000_0_1_1 = some (.clkHigh 0 false true) := by decide

theorem test_decode_bitShift : decodeTableWord 16 0b011_01000_1_0_1 = some (.bitShift 0b01000 true true) := by decide

theorem test_decode_frameTurn : decodeTableWord 16 0b010_11111_1_0_1 = some (.frameTurn 0b11111 true false) := by decide

theorem test_decode_hold : decodeTableWord 16 0b011_00000_1_1_0 = some (.hold .dataBitActive 0 true true false) := by
  decide

theorem test_decode_hold_in_code_7 :
    decodeTableWord 16 0b111_00000_1_1_1 = some (.hold .reserved7 0 true true true) := by decide

theorem test_decode_encBinary : decodeTableWord 8 0b0 = some .encBinary := by decide

theorem test_decode_encHuman : decodeTableWord 8 0b1 = some .encHuman := by decide

theorem test_decode_rejects_a_mode_above_one_bit :
    (decodeBytes [0x02]).toOption = none ∧ (decodeBytes [0x01]).toOption = some .encHuman := by decide

theorem test_decode_rejects_a_key_above_eleven_bits :
    (decodeBytes [0x00, 0x08]).toOption = none ∧
      (decodeBytes [0xFF, 0x07]).toOption = some (.hold .reserved7 31 true true true) := by decide

theorem test_decode_rejects_other_lengths :
    (decodeBytes []).toOption = none ∧ (decodeBytes [0, 0, 0]).toOption = none := by decide

/-- The words of 30_encoding.md R41. -/
theorem test_rom_words : ruleTable.map romWord =
    [0b000_001_001_001_01, 0b001_001_000_010_00, 0b010_010_010_011_00, 0b011_010_000_010_10, 0b010_001_001_001_11] := by
  decide

/-! ### Each row runs as the first instruction after reset -/

theorem test_run_frameOpen : seen (step (State.reset.withFetchWord 16 0x001)) =
    some (⟨.frameStart, 0, 0, [0, 0, 0, 0], false⟩, [.opened]) := by decide

theorem test_run_frameArm : seen (step (State.reset.withFetchWord 16 0x100)) =
    some (⟨.frameActive, 0, 0, [0, 0, 0, 0], false⟩, []) := by decide

theorem test_run_clkHigh : seen (step (State.reset.withFetchWord 16 0x202)) =
    some (⟨.dataBitActive, 0, 0, [0, 0, 0, 0], false⟩, []) := by decide

theorem test_run_bitShift : seen (step (State.reset.withFetchWord 16 0x304)) =
    some (⟨.frameActive, 0, 1, [1, 0, 0, 0], false⟩, []) := by decide

theorem test_run_frameTurn : seen (step (State.reset.withFetchWord 16 0x201)) =
    some (⟨.frameStart, 0, 0, [0, 0, 0, 0], false⟩, [.word 0 0, .closed, .opened]) := by decide

theorem test_run_hold : seen (step (State.reset.withFetchWord 16 0x000)) =
    some (⟨.idle, 0, 0, [0, 0, 0, 0], false⟩, []) := by decide

theorem test_run_encBinary :
    (nextOf (step (State.reset.withFetchWord 8 0))).map State.byteSink = some [0, 0, 0] := by decide

theorem test_run_encHuman :
    (nextOf (step (State.reset.withFetchWord 8 1))).map (fun s => (s.textSink.filter (· != ' '), s.byteSink)) =
      some (['0'], []) := by decide

/-! ### The vectors of 95_test_vectors.md -/

/-- 2.2, first row: bits 7:3 are ignored. -/
theorem test_2_2_open : seen (step (machine .idle 0 0 [0, 0, 0, 0] false [sampleCycle 0xF9])) =
    some (⟨.frameStart, 0, 0, [0, 0, 0, 0], false⟩, [.opened]) := by decide

/-- 2.2, third row. -/
theorem test_2_2_arm : seen (step (machine .frameStart 0 0 [0, 0, 0, 0] false [sampleCycle 0x02])) =
    some (⟨.frameActive, 0, 0, [0, 0, 0, 0], false⟩, []) := by decide

/-- 2.2, fifth row. -/
theorem test_2_2_unreachable_code : seen (step (machine .frameFirstBit 0 0 [0, 0, 0, 0] false [sampleCycle 0x07])) =
    some (⟨.frameFirstBit, 0, 0, [0, 0, 0, 0], false⟩, []) := by decide

/-- 2.2, last row: slot 0 fills and its top bit is kept. -/
theorem test_2_2_fill :
    seen (step (machine .dataBitActive 0 23 [0x7FFFFF, 0x123456, 9, 0] false [sampleCycle 0xFD])) =
      some (⟨.frameActive, 1, 0, [0xFFFFFF, 0, 9, 0], false⟩, []) := by decide

/-- 2.3, vectors 6 and 7: the last slot parks the cursor, and the next bit overflows. -/
theorem test_2_3_park_and_overflow :
    seen (step (machine .dataBitActive 3 23 [1, 2, 3, 0x2AAAAA] false [sampleCycle 0x04])) =
        some (⟨.frameActive, 4, 0, [1, 2, 3, 0x555555], false⟩, []) ∧
      seen (step (machine .dataBitActive 4 0 [1, 2, 3, 4] false [sampleCycle 0x04])) =
        some (⟨.frameActive, 4, 0, [1, 2, 3, 4], true⟩, []) := by decide

/-- 2.3, vector 9: the clock is still high. -/
theorem test_2_3_hold : seen (step (machine .dataBitActive 1 7 [0xFFFFFF, 0x55, 7, 7] false [sampleCycle 0x06])) =
    some (⟨.dataBitActive, 1, 7, [0xFFFFFF, 0x55, 7, 7], false⟩, []) := by decide

/-- 2.4, vector 3: a short frame, and a stale word in slot 1. -/
theorem test_2_4_short_frame :
    seen (step (emitting 2 (machine .frameActive 0 5 [0x15, 0x999999, 0, 0] false [sampleCycle 0x01]))) =
      some (⟨.frameStart, 0, 0, [0, 0x999999, 0, 0], false⟩,
        [.word 0 0x15, .word 1 0x999999, .closed, .opened]) := by decide

/-- 2.4, vector 5: after an overflow the flag stays. -/
theorem test_2_4_after_overflow :
    seen (step (emitting 4 (machine .frameActive 4 0 [1, 2, 3, 4] true [sampleCycle 0x09]))) =
      some (⟨.frameStart, 0, 0, [0, 2, 3, 4], true⟩,
        [.word 0 1, .word 1 2, .word 2 3, .word 3 4, .closed, .opened]) := by decide

/-- 2.4, vector 6: strobe with the clock high ends no frame. -/
theorem test_2_4_clock_high : seen (step (machine .frameActive 1 12 [0xABCDEF, 0x123, 0, 0] false [sampleCycle 0x03])) =
    some (⟨.dataBitActive, 1, 12, [0xABCDEF, 0x123, 0, 0], false⟩, []) := by decide

/-- 2.5 (E3): the bytes of 0xA5C33C and 0x800001, and the way back. -/
theorem test_2_5_binary : binaryBytes (.word 0 0xA5C33C) = [0x3C, 0xC3, 0xA5] ∧
    binaryBytes (.word 0 0x800001) = [0x01, 0x00, 0x80] ∧ tripletWord 0x56 0x34 0x12 = 0x123456 := by decide

/-- 2.5 (E4): the printed numbers. -/
theorem test_2_5_human : decimalText (signed24 0xA5C33C) = ['-', '5', '9', '1', '3', '7', '9', '6'] ∧
    decimalText (signed24 0x7FFFFF) = ['8', '3', '8', '8', '6', '0', '7'] ∧
    decimalText (signed24 0x00000A) = ['1', '0'] ∧ decimalText (signed24 0xFFFFFF) = ['-', '1'] := by decide

/-- E6: what one frame end writes, in each mode, without the layout's spaces. -/
theorem test_E6_outputs :
    (nextOf (step (machine .frameActive 1 0 [0, 0, 0, 0] false [sampleCycle 0x01]))).map State.byteSink =
        some [0, 0, 0] ∧
      (nextOf (step (human (machine .frameActive 1 0 [0, 0, 0, 0] false [sampleCycle 0x01])))).map
        (fun s => s.textSink.filter (· != ' ')) = some ['0', ']', '['] := by decide

/-- 2.6: reset dominates a valid sample, and clears the flag. -/
theorem test_2_6_reset :
    seen (step (machine .dataBitActive 0 5 [0x1F, 0, 0, 0] false [⟨true, true, 0x00, []⟩])) =
        some (⟨.idle, 0, 0, [0, 0, 0, 0], false⟩, []) ∧
      seen (step (machine .frameActive 4 0 [1, 2, 3, 4] true [resetCycle])) =
        some (⟨.idle, 0, 0, [0, 0, 0, 0], false⟩, []) := by decide

/-- 2.6, last row, and E7: no sample changes nothing. -/
theorem test_2_6_idle :
    seen (step (machine .frameActive 1 0 [5, 0, 0, 0] false [idleCycle])) =
        some (⟨.frameActive, 1, 0, [5, 0, 0, 0], false⟩, []) ∧
      nextOf (step State.reset) = some State.reset := by decide

/-- The ports in the cycle of 2.4 vector 2. -/
theorem test_ports :
    ports (emitting 2 (machine .frameActive 2 0 [1, 0xFFFFFE, 0x777777, 0] false [sampleCycle 0x01])) =
      ⟨true, true, true, some [1, 0xFFFFFE], false, 2, 2, 0, [1, 0xFFFFFE, 0x777777, 0]⟩ := by decide

/-- Without a sample or with `rst` every event output is 0, `word_out` included (10_state.md R23). -/
theorem test_ports_without_a_sample :
    let s := emitting 2 (machine .frameActive 2 0 [1, 0xFFFFFE, 0, 0] false [⟨false, false, 0x01, []⟩])
    let t := emitting 2 (machine .frameActive 2 0 [1, 0xFFFFFE, 0, 0] false [⟨true, true, 0x01, []⟩])
    ports s = ⟨false, false, false, some [0, 0], false, 2, 2, 0, [1, 0xFFFFFE, 0, 0]⟩ ∧
      ports t = ⟨false, false, false, some [0, 0], false, 2, 2, 0, [1, 0xFFFFFE, 0, 0]⟩ := by decide

/-- A failed write loses one event and nothing else (42_output_encoder.md R84). -/
theorem test_lost_event :
    (nextOf (step (emitting 2 (machine .frameActive 2 0 [1, 2, 0, 0] false [⟨false, true, 0x01, [true]⟩])))).map
      (fun s => (s.byteSink, s.presented)) =
      some ([2, 0, 0], [.word 0 1, .word 1 2, .closed, .opened]) := by decide

/-- A sample before the first reset has no meaning (R101). -/
theorem test_before_reset :
    nextOf (step { machine .idle 0 0 [0, 0, 0, 0] false [sampleCycle 0x01] with wasReset := false }) = none := by decide

/-! ### Sound machines in each reachable state -/

/-- Inv of a machine whose current slot, if any, is found by evaluation. -/
theorem inv_of_slot {s : State} (h1 : s.cfg.Legal) (h2 : s.wasReset = true) (h3 : s.events = []) (h4 : s.lost = [])
    (h5 : s.ctx.acc.length = s.cfg.channels)
    (h6 : s.ctx.state = .idle ∨ s.ctx.state = .frameStart ∨ s.ctx.state = .frameActive ∨ s.ctx.state = .dataBitActive)
    (h7 : s.ctx.currentChannel ≤ s.cfg.channels) (h8 : s.ctx.currentBit < bits)
    (h9 : (s.ctx.acc[s.ctx.currentChannel]?.all (fun a => decide (a.toNat < 2 ^ s.ctx.currentBit))) = true)
    (h10 : s.ctx.currentChannel = s.cfg.channels → s.ctx.currentBit = 0)
    (h11 : s.ctx.state = .idle ∨ s.ctx.state = .frameStart →
      s.ctx.currentChannel = 0 ∧ s.ctx.currentBit = 0 ∧ s.ctx.acc[0]? = some 0)
    (h12 : s.ctx.state = .idle → s.ctx.faultOverflow = false) : s.Inv :=
  ⟨h1, h2, ⟨h5, h6, h7, h8, fun a ha => by rw [ha] at h9; simpa using h9, h10, h11, h12⟩, h3, h4⟩

/-- Idle, with a strobe to come. -/
def opening : State := machine .idle 0 0 [0, 0, 0, 0] false [sampleCycle 0x01]

/-- FrameActive, one word captured and a strobe to come; every channel is emitted. -/
def turning : State := emitting 4 (machine .frameActive 1 0 [0xA5C33C, 0, 0, 0] false [sampleCycle 0x01])

/-- DataBitActive before the last bit of the last slot, with the clock's fall to come. -/
def lastBit : State := machine .dataBitActive 3 23 [1, 2, 3, 0x2AAAAA] false [sampleCycle 0x04]

/-- DataBitActive with every slot full, with the clock's fall to come. -/
def full : State := machine .dataBitActive 4 0 [1, 2, 3, 4] false [sampleCycle 0x04]

theorem opening_inv : opening.Inv := by
  apply inv_of_slot <;> decide

theorem turning_inv : turning.Inv := by
  apply inv_of_slot <;> decide

theorem lastBit_inv : lastBit.Inv := by
  apply inv_of_slot <;> decide

theorem full_inv : full.Inv := by
  apply inv_of_slot <;> decide

/-! ### Witnesses: the hypotheses of each statement can be met -/

theorem witness_DecodeOfEncodeIsTheInstruction :
    (Instr.frameTurn 31 true false).wf = true ∧ (Instr.hold .frameActive 31 true false false).wf = true ∧
      (Instr.hold .reserved7 0 true true true).wf = true := by decide

theorem witness_FirstMatchingRuleWins :
    lookup .frameActive 0x07 = some rule3 ∧ lookup .frameActive 0x04 = none ∧
      ruleMatches .frameActive 0x07 rule5 = true ∧
      (rule3 ∈ ruleTable ∧ rule5 ∈ ruleTable ∧ rule3 ≠ rule5 ∧ rule3.src = rule5.src) ∧
      turning.ctx.state = .frameActive ∧ (0x07 : Sample).extractLsb' 0 2 = 0b11 := by decide

theorem witness_IgnoredSampleBitsChangeNothing :
    (0x04 : Sample).extractLsb' 0 3 = (0xFC : Sample).extractLsb' 0 3 ∧
      (0x04 : Sample).extractLsb' 0 2 = (0xF8 : Sample).extractLsb' 0 2 ∧
      lookup opening.ctx.state 0x04 ≠ some rule4 := by decide

theorem witness_FrameOpenOpensAFrame : frameStrobe 0x01 = true ∧ frameStrobe 0xFF = true ∧ rule5 ∈ ruleTable := by decide

theorem witness_FrameArmConfirmsTheFrame : frameStrobe 0xFE = false ∧
    (machine .frameStart 0 0 [0, 0, 0, 0] false []).ctx.state = .frameStart ∧ frameStrobe 0x03 = true := by decide

theorem witness_ClkHighRecordsTheClock : bitClock 0x02 = true ∧ bitClock 0x03 = true := by decide

/-- A bit inside a slot, and the clock clear. -/
theorem witness_BitShiftCapturesADataBit_inside :
    let s := machine .dataBitActive 0 22 [5, 0, 0, 0] false []
    s.ctx.currentChannel ≠ s.cfg.channels ∧ s.ctx.acc[s.ctx.currentChannel]? = some 5 ∧ s.ctx.currentBit + 1 ≠ 24 ∧
      bitClock 0x05 = false := by decide

/-- The bit that fills the slot before the last one. -/
theorem witness_BitShiftCapturesADataBit_fills :
    let s := machine .dataBitActive 2 23 [1, 2, 0x400000, 9] false []
    s.ctx.currentChannel ≠ s.cfg.channels ∧ s.ctx.acc[s.ctx.currentChannel]? = some 0x400000 ∧
      s.ctx.currentBit + 1 = 24 ∧ s.ctx.currentChannel + 1 < s.cfg.channels := by decide

/-- The bit that fills the last slot, in a sound context. -/
theorem witness_BitShiftCapturesADataBit_parks :
    lastBit.ctx.currentChannel ≠ lastBit.cfg.channels ∧
      lastBit.ctx.acc[lastBit.ctx.currentChannel]? = some 0x2AAAAA ∧ lastBit.ctx.currentBit + 1 = 24 ∧
      ¬ lastBit.ctx.currentChannel + 1 < lastBit.cfg.channels ∧ lastBit.ctx.Inv lastBit.cfg.channels :=
  ⟨by decide, by decide, by decide, by decide, lastBit_inv.context⟩

/-- The bit that finds every slot full, with the flag clear and with it set. -/
theorem witness_BitShiftCapturesADataBit_full :
    full.ctx.currentChannel = full.cfg.channels ∧
      (machine .dataBitActive 4 0 [1, 2, 3, 4] true []).ctx.currentChannel = full.cfg.channels := by decide

/-- `N_EMIT` at the top of its range. -/
theorem witness_FrameTurnEmitsAndReopens :
    turning.cfg.nEmit = turning.cfg.channels ∧ turning.cfg.nEmit ≤ turning.ctx.acc.length ∧
      bitClock 0xFD = false ∧ frameStrobe 0xFD = true := by decide

theorem witness_HoldChangesNothing :
    lookup .idle 0xFE = none ∧ lookup .frameStart 0x03 = none ∧ lookup .frameActive 0xFC = none ∧
      lookup .dataBitActive 0x06 = none ∧ lookup .frameFirstBit 0x07 = none ∧ lookup .frameEnd 0x07 = none ∧
      lookup .dataBitStart 0x07 = none ∧ lookup .reserved7 0x07 = none := by decide

theorem witness_OverflowSetsTheFlagOnly :
    let s := machine .dataBitActive 4 0 [1, 2, 3, 4] true [resetCycle]
    s.ctx.currentChannel = s.cfg.channels ∧ s.ctx.faultOverflow = true ∧
      (nextOf (step s)).map (fun t => t.ctx.faultOverflow) = some false ∧
      (nextOf (exec (.frameTurn 0 false false) turning)).isSome = true := by decide

theorem witness_IndexOutOfRangeStops :
    let s := machine .dataBitActive 5 0 [1, 2, 3, 4] false []
    let t := emitting 5 (machine .frameActive 0 0 [1, 2, 3, 4] false [])
    s.ctx.currentChannel ≠ s.cfg.channels ∧ s.ctx.acc.length ≤ s.ctx.currentChannel ∧
      t.ctx.acc.length < t.cfg.nEmit := by decide

theorem witness_DecoderRowsWriteOnlyWhatTheyName :
    (nextOf (exec (.frameOpen 0 false false) opening)).isSome = true ∧
      (nextOf (exec (.frameArm 0 false false) opening)).isSome = true ∧
      (nextOf (exec (.clkHigh 0 false false) opening)).isSome = true ∧
      (nextOf (exec (.hold .idle 0 false false false) opening)).isSome = true ∧
      (nextOf (exec (.frameTurn 0 false false) turning)).isSome = true ∧
      (nextOf (exec (.bitShift 0 true false) lastBit)).isSome = true := by decide

theorem witness_NumberFieldHasFixedWidth : 8 ≤ Config.default.layout.fieldW := by decide

theorem witness_EncoderLeavesTheDecoderAlone :
    (nextOf (exec .encBinary turning)).isSome = true ∧ (nextOf (exec .encHuman turning)).isSome = true := by decide

theorem witness_StepRunsTheDecodedInstruction :
    turning.wasReset = true ∧ turning.input = ⟨false, true, 0x01, []⟩ :: [] := by decide

theorem witness_CycleWithoutSampleKeepsTheContext :
    let s := machine .frameActive 1 0 [5, 0, 0, 0] false [⟨false, false, 0x07, [true]⟩]
    (s.input = ⟨false, false, 0x07, [true]⟩ :: [] ∧ s.events = []) ∧
      State.reset.input = [] ∧ State.reset.events = [] ∧ State.reset.lost = [] := by decide

theorem witness_ResetEdgeClearsTheContext :
    let s := machine .frameActive 4 0 [1, 2, 3, 4] true [⟨true, true, 0x01, []⟩]
    s.input = ⟨true, true, 0x01, []⟩ :: [] ∧ s.ctx.state ≠ .idle ∧ s.ctx.faultOverflow = true ∧
      (nextOf (step s)).map (fun t => (t.ctx.state, t.ctx.faultOverflow)) = some (.idle, false) := by decide

/-- An unreset machine before a sample, and one before a reset edge. -/
theorem witness_SampleBeforeResetHasNoMeaning :
    (∃ s : State, s.wasReset = false ∧ s.Presents 0x01 []) ∧
      ∃ s : State, s.wasReset = false ∧ s.input = [resetCycle] ∧ resetCycle.rst = true :=
  ⟨⟨{ opening with wasReset := false }, rfl, [], rfl⟩, ⟨{ opening with wasReset := false, input := [resetCycle] }, rfl, rfl, rfl⟩⟩

theorem witness_ResetMeetsTheInvariants : turning.cfg.Legal ∧ State.reset.cfg.Legal := by decide

theorem witness_EveryStepKeepsTheInvariants :
    (opening.Inv ∧ (nextOf (step opening)).isSome = true) ∧ (turning.Inv ∧ (nextOf (step turning)).isSome = true) ∧
      (lastBit.Inv ∧ (nextOf (step lastBit)).isSome = true) ∧ (full.Inv ∧ (nextOf (step full)).isSome = true) :=
  ⟨⟨opening_inv, by decide⟩, ⟨turning_inv, by decide⟩, ⟨lastBit_inv, by decide⟩, ⟨full_inv, by decide⟩⟩

theorem witness_SoundMachineNeverStops : full.Inv := full_inv

/-- The step that sets the flag, and the step that clears it. -/
theorem witness_FaultFlagIsStickyAndUnread :
    (full.wasReset = true ∧ full.Presents 0x04 [] ∧ full.ctx.state = .dataBitActive ∧ bitClock 0x04 = false ∧
      full.ctx.currentChannel = full.cfg.channels ∧ full.ctx.faultOverflow = false ∧
      (nextOf (step full)).map (fun t => t.ctx.faultOverflow) = some true) ∧
      (nextOf (step (machine .frameActive 0 0 [0, 0, 0, 0] true [resetCycle]))).map (fun t => t.ctx.faultOverflow) =
        some false :=
  ⟨⟨rfl, ⟨[], rfl⟩, rfl, rfl, rfl, rfl, by decide⟩, by decide⟩

/-- A next state in each state of the graph, the reserved code included. -/
theorem witness_StateGraphIsComplete (q : DecoderState) :
    (machine q 0 0 [0, 0, 0, 0] false [sampleCycle 0x01]).Presents 0x01 [] ∧
      (nextOf (step (machine q 0 0 [0, 0, 0, 0] false [sampleCycle 0x01]))).isSome = true :=
  ⟨⟨[], rfl⟩, by cases q <;> decide⟩

theorem witness_UnreachableCodesAreStuck :
    let s := machine .dataBitStart 0 0 [0, 0, 0, 0] false [sampleCycle 0x07]
    s.ctx.state = .dataBitStart ∧ (nextOf (step s)).isSome = true ∧ s.events = [] ∧
      (∀ c rest, s.input = c :: rest → c.rst = false) ∧ turning.Inv :=
  ⟨rfl, by decide, rfl, fun c rest h => by cases h; rfl, turning_inv⟩

theorem witness_EventListOfAStep :
    (opening.Inv ∧ opening.Presents 0x01 []) ∧ (turning.Inv ∧ turning.Presents 0x01 []) ∧
      (full.Inv ∧ full.Presents 0x04 []) :=
  ⟨⟨opening_inv, [], rfl⟩, ⟨turning_inv, [], rfl⟩, ⟨full_inv, [], rfl⟩⟩

theorem witness_PortsShowTheStep :
    (turning.Inv ∧ (nextOf (step turning)).isSome = true ∧ (ports turning).wordOut = some [0xA5C33C, 0, 0, 0] ∧
      (ports turning).wordValid = true) ∧
      State.reset.Inv ∧ (nextOf (step State.reset)).isSome = true ∧ (ports State.reset).wordOut = some [0] ∧
      ∀ b rest, ¬ State.reset.Presents b rest :=
  ⟨⟨turning_inv, by decide, by decide, by decide⟩, by apply inv_of_slot <;> decide, by decide, by decide,
    fun _ _ h => by obtain ⟨_, h⟩ := h; cases h⟩

/-- Another output mode, another sink content, another sample in bits 7:3, a failing sink. -/
theorem witness_OutputSideCannotInfluenceTheDecoder :
    turning.SameDecoder
      { human turning with input := [⟨false, true, 0xF9, [true]⟩], byteSink := [1], textSink := ['x'] } :=
  ⟨rfl, rfl, rfl, rfl, by decide, rfl, rfl⟩

theorem witness_ConfigurationIsNeverWritten :
    (nextOf (exec (.frameTurn 0 false false) turning)).isSome = true ∧ (nextOf (step turning)).isSome = true := by decide

theorem witness_OutputsAndInputsKeepTheirOrder : (nextOf (step turning)).isSome = true := by decide

theorem witness_StrobeIsIgnoredWhileTheClockIsHigh :
    lastBit.ctx.state = .dataBitActive ∧ (0x06 : Sample).extractLsb' 1 2 = (0x07 : Sample).extractLsb' 1 2 := by decide

theorem witness_ClockIsIgnoredBeforeTheFrameIsActive :
    (∃ s : State, s.Inv ∧ s.Presents 0x02 [] ∧ s.ctx.state = .idle ∧ frameStrobe 0x02 = false) ∧
      ∃ s : State, s.Inv ∧ s.Presents 0x03 [] ∧ s.ctx.state = .frameStart ∧ frameStrobe 0x03 = true :=
  ⟨⟨machine .idle 0 0 [0, 0, 0, 0] false [sampleCycle 0x02], by apply inv_of_slot <;> decide, ⟨[], rfl⟩, rfl, rfl⟩,
    ⟨machine .frameStart 0 0 [0, 7, 0, 0] true [sampleCycle 0x03], by apply inv_of_slot <;> decide, ⟨[], rfl⟩, rfl,
      rfl⟩⟩

/-- BIT and TURN from a part-filled slot, WORD with every slot full, START from reset. -/
theorem witness_PseudoOperationsDoWhatTheyName :
    (∃ s : State, s.Inv ∧ s.ctx.state = .frameActive ∧ s.input = replay (bitSamples true) ++ []) ∧
      (∃ s : State, s.Inv ∧ s.ctx.state = .frameActive ∧ s.input = replay (wordSamples 0xA5C33C) ++ []) ∧
      (∃ s : State, s.Inv ∧ s.ctx.state = .idle ∧ s.input = replay startSamples ++ []) ∧
      ∃ s : State, s.Inv ∧ s.ctx.state = .frameActive ∧ s.input = replay turnSamples ++ [] :=
  ⟨⟨machine .frameActive 1 12 [0xABCDEF, 0x123, 0, 0] false (replay (bitSamples true) ++ []),
      by apply inv_of_slot <;> decide, rfl, rfl⟩,
    ⟨machine .frameActive 4 0 [1, 2, 3, 4] false (replay (wordSamples 0xA5C33C) ++ []),
      by apply inv_of_slot <;> decide, rfl, rfl⟩,
    ⟨machine .idle 0 0 [0, 0, 0, 0] false (replay startSamples ++ []), by apply inv_of_slot <;> decide, rfl, rfl⟩,
    ⟨machine .frameActive 1 12 [0xABCDEF, 0x123, 0, 0] false (replay turnSamples ++ []),
      by apply inv_of_slot <;> decide, rfl, rfl⟩⟩

/-- 24 pairs of samples, then a strobe with the clock clear. -/
theorem witness_SingleWordAssembly :
    ∃ s : State, s.Inv ∧ s.ctx.state = .frameActive ∧ s.ctx.currentChannel = 0 ∧ s.ctx.currentBit = 0 ∧
      (List.replicate 24 ((0x06 : Sample), (0x05 : Sample))).length = 24 ∧
      (∀ p ∈ List.replicate 24 ((0x06 : Sample), (0x05 : Sample)), bitClock p.1 = true ∧ bitClock p.2 = false) ∧
      frameStrobe 0x01 = true ∧ bitClock 0x01 = false ∧
      s.input = replay ((List.replicate 24 ((0x06 : Sample), (0x05 : Sample))).flatMap (fun p => [p.1, p.2])) ++
        sampleCycle 0x01 :: [] :=
  ⟨machine .frameActive 0 0 [0, 0, 0, 0] false
      (replay ((List.replicate 24 ((0x06 : Sample), (0x05 : Sample))).flatMap (fun p => [p.1, p.2])) ++
        sampleCycle 0x01 :: []),
    by apply inv_of_slot <;> decide, rfl, rfl, rfl, rfl,
    fun p hp => by rw [List.eq_of_mem_replicate hp]; decide, by decide, by decide, rfl⟩

theorem witness_MultiWordAssembly :
    let s := machine .frameActive 0 0 [0, 1, 2, 3] false []
    s.ctx.acc.length = s.cfg.channels ∧ s.ctx.currentChannel = 0 ∧ s.ctx.currentBit = 0 ∧ s.ctx.acc[0]? = some 0 := by
  decide

end Sys2Proof.Tests
end

section
/-! PROOFS. Scope of the block (spec/00_scope.md): what an instruction and a step leave alone, where the model stops, and
which instructions a step runs. -/

namespace Sys2Proof.Machine

/-! ### What the operations leave alone -/

/-- An instruction that is no encoder operation writes the context and the event list only (R55 to R60). -/
theorem exec_keyRow_outside {i : Instr} {s t : State} (hb : i ≠ .encBinary) (hh : i ≠ .encHuman)
    (h : exec i s = .next t) : t = { s with ctx := t.ctx, events := t.events } := by
  cases i with
  | frameOpen x d c => cases h; rfl
  | frameArm x d c => cases h; rfl
  | clkHigh x d strobe => cases h; rfl
  | bitShift x d strobe =>
    obtain ⟨u, hu, rfl⟩ := takeRule_eq_next.1 h
    rw [onDataBit_outside hu]
    rfl
  | frameTurn x d c =>
    obtain ⟨u, hu, rfl⟩ := takeRule_eq_next.1 h
    obtain ⟨-, rfl⟩ := onFrameEnd_eq_next.1 hu
    rfl
  | hold q x d c strobe => cases h; rfl
  | encBinary => exact absurd rfl hb
  | encHuman => exact absurd rfl hh

/-- No instruction writes the parameters (R19). -/
theorem exec_cfg {i : Instr} {s t : State} (h : exec i s = .next t) : t.cfg = s.cfg := by
  by_cases hb : i = .encBinary
  · subst hb; cases h; rfl
  by_cases hh : i = .encHuman
  · subst hh; cases h; rfl
  rw [exec_keyRow_outside hb hh h]

/-- No step writes the parameters: the reset edge and the encoder do not, and neither does the instruction (R19). -/
theorem step_cfg {s t : State} (h : step s = .next t) : t.cfg = s.cfg := by
  obtain ⟨_, _, _, _, rfl⟩ | ⟨_, _, _, rfl⟩ | ⟨_, _, _, _, _, _, _, rfl⟩ | ⟨_, _, u, _, _, _, _, hu, _, _, rfl⟩ :=
    step_eq_next h
  · rfl
  · rfl
  · rfl
  · have hcfg := exec_cfg hu
    exact hcfg

/-- Settles O42: from the inversion of the step, as no instruction writes the parameters. -/
theorem configurationIsNeverWritten : Obligations.ConfigurationIsNeverWritten :=
  ⟨fun _ _ _ h => exec_cfg h, fun _ _ h => step_cfg h⟩

/-! ### Where the model stops -/

/-- A rule whose action stops the machine does not reach its To state. -/
theorem takeRule_fault {act : State → Result} {s : State} {e : Fault} (q : DecoderState) (h : act s = .fault e) :
    takeRule act q s = .fault e := by
  rw [takeRule, h, andThen_fault]

/-- The one stop of on_frame_end: more words to emit than there are slots (R30, log entry 8). -/
theorem onFrameEnd_outOfRange {s : State} (h : s.ctx.acc.length < s.cfg.nEmit) :
    onFrameEnd s = .fault .emitOutOfRange :=
  if_neg (Nat.not_le.2 h)

/-- Settles O16: each of the two actions stops, and so does its row. -/
theorem indexOutOfRangeStops : Obligations.IndexOutOfRangeStops := by
  constructor
  · intro x d strobe s hc hlen
    exact takeRule_fault .frameActive (onDataBit_outOfRange d hc (List.getElem?_eq_none hlen))
  · intro x d c s hlen
    exact takeRule_fault .frameStart (onFrameEnd_outOfRange hlen)

/-! ### What a step runs -/

/-- Settles O27: such a cycle is fetched as the instruction of its key. -/
theorem stepRunsTheDecodedInstruction : Obligations.StepRunsTheDecodedInstruction := by
  intro s b lost rest hw hin
  rw [step, fetch_sample hin rfl rfl hw]
  rfl

end Sys2Proof.Machine

end

section
/-! PROOFS. The state of the block (spec/10_state.md): what reset gives, the invariants, the fault flag, the events of
a step and the ports. -/

namespace Sys2Proof.Machine

/-! ### What a sample selects -/

/-- No rule matches exactly where each of the five does not (R60). -/
theorem noRuleMatches_iff (q : DecoderState) (c s : Bool) :
    noRuleMatches q c s = true ↔
      ¬(q = .idle ∧ s = true) ∧ ¬(q = .frameStart ∧ s = false) ∧ ¬(q = .frameActive ∧ c = true) ∧
        ¬(q = .dataBitActive ∧ c = false) ∧ ¬(q = .frameActive ∧ s = true) := by
  cases q <;> revert c s <;> decide

/-- What the instruction of a sample does: the rule that fires, by state and lines, or nothing (R55 to R60). -/
theorem exec_instrFor_cases (s : State) (b : Sample) :
    (s.ctx.state = .idle ∧ frameStrobe b = true ∧ exec (instrFor s b) s = takeRule onFrameStart .frameStart s) ∨
      (s.ctx.state = .frameStart ∧ frameStrobe b = false ∧ exec (instrFor s b) s = takeRule onNone .frameActive s) ∨
      (s.ctx.state = .frameActive ∧ bitClock b = true ∧ exec (instrFor s b) s = takeRule onNone .dataBitActive s) ∨
      (s.ctx.state = .dataBitActive ∧ bitClock b = false ∧
        exec (instrFor s b) s = takeRule (onDataBit (dataLine b)) .frameActive s) ∨
      (s.ctx.state = .frameActive ∧ bitClock b = false ∧ frameStrobe b = true ∧
        exec (instrFor s b) s = takeRule onFrameEnd .frameStart s) ∨
      (noRuleMatches s.ctx.state (bitClock b) (frameStrobe b) = true ∧ exec (instrFor s b) s = .next s) := by
  rw [noRuleMatches_iff, instrFor, decodeKey_lookupKey]
  split_ifs with h1 h2 h3 h4 h5
  · exact .inl ⟨h1.1, h1.2, rfl⟩
  · exact .inr (.inl ⟨h2.1, h2.2, rfl⟩)
  · exact .inr (.inr (.inl ⟨h3.1, h3.2, rfl⟩))
  · exact .inr (.inr (.inr (.inl ⟨h4.1, h4.2, rfl⟩)))
  · have hc : bitClock b = false := by simpa [h5.1] using h3
    exact .inr (.inr (.inr (.inr (.inl ⟨h5.1, hc, h5.2, rfl⟩))))
  · exact .inr (.inr (.inr (.inr (.inr ⟨⟨h1, h2, h3, h4, h5⟩, rfl⟩))))

/-- A sample never selects an encoder operation, so its instruction leaves what is outside the block alone. -/
theorem exec_instrFor_outside {s u : State} {b : Sample} (h : exec (instrFor s b) s = .next u) :
    u = { s with ctx := u.ctx, events := u.events } := by
  have hne : instrFor s b ≠ .encBinary ∧ instrFor s b ≠ .encHuman := by
    rw [instrFor, decodeKey_lookupKey]
    split_ifs <;> exact ⟨Instr.noConfusion, Instr.noConfusion⟩
  exact exec_keyRow_outside hne.1 hne.2 h

/-- What the next cycle presents, if there is one (R23, R100). -/
theorem presentedSample_cons {s : State} {c : Cycle} {rest : List Cycle} (hin : s.input = c :: rest) :
    presentedSample s = if c.rst then none else if c.sampleValid then some c.sample else none := by
  simp only [presentedSample, hin]

/-- If a sample's instruction completes, so does its step, as the encoder does (R64, R77). -/
theorem step_completes_of_exec {s : State} {b : Sample} {rest : List Cycle} (hw : s.wasReset = true)
    (hp : s.Presents b rest)
    (he : ∀ lost, ∃ u, exec (instrFor s b) { s with input := rest, lost := lost } = .next u) :
    ∃ t, step s = .next t := by
  obtain ⟨lost, hin⟩ := hp
  obtain ⟨u, hu⟩ := he lost
  obtain ⟨bs, ts, henc⟩ := exec_encoder u
  exact ⟨_, by rw [step, fetch_sample hin rfl rfl hw]; exact andThen_eq_next.2 ⟨u, hu, henc⟩⟩

/-! ### Reset -/

/-- Settles O32: `Context.reset` holds these values field by field. -/
theorem resetContextValues : Obligations.ResetContextValues :=
  ⟨rfl, fun _ => rfl⟩

theorem zero_fits_emptySlot {a : Word} (h : 0 = a) : a.toNat < 2 ^ 0 := by
  subst h
  decide

/-- The reset context is sound as soon as there is a slot 0 (R18, R20). -/
theorem contextReset_inv {n : Nat} (hn : 1 ≤ n) : (Context.reset n).Inv n where
  slots := List.length_replicate
  reachable := .inl rfl
  channelLe := Nat.zero_le n
  bitLt := Nat.zero_lt_succ 23
  partialLt a ha := by
    have hw : 0 < n ∧ 0 = a := by simpa [Context.reset, List.getElem?_replicate] using ha
    exact zero_fits_emptySlot hw.2
  parked _ := rfl
  boundary _ := ⟨rfl, rfl, List.getElem?_replicate_of_lt hn⟩
  idleClean _ := rfl

/-- A reset edge makes a machine with legal parameters sound, whatever it was. -/
theorem applyReset_inv {s : State} (h : s.cfg.Legal) : (applyReset s).Inv where
  legal := h
  started := rfl
  context := contextReset_inv h.1
  noEvents := rfl
  noLost := rfl

/-- Settles O33: both contexts are `Context.reset`. -/
theorem resetMeetsTheInvariants : Obligations.ResetMeetsTheInvariants :=
  ⟨applyReset_inv (s := State.reset) (by decide), fun _ h => applyReset_inv h⟩

/-! ### The invariants -/

/-- Moving to another reachable state keeps a context sound if the zeroed boundary and the clean flag hold there. -/
theorem Context.Inv.withState {n : Nat} {c : Context} (h : c.Inv n) {q : DecoderState}
    (hq : q = .idle ∨ q = .frameStart ∨ q = .frameActive ∨ q = .dataBitActive)
    (hb : q = .idle ∨ q = .frameStart → c.currentChannel = 0 ∧ c.currentBit = 0 ∧ c.acc[0]? = some 0)
    (hi : q = .idle → c.faultOverflow = false) : Context.Inv n { c with state := q } :=
  { h with reachable := hq, boundary := hb, idleClean := hi }

theorem Context.Inv.toFrameStart {n : Nat} {c : Context} (h : c.Inv n)
    (hb : c.currentChannel = 0 ∧ c.currentBit = 0 ∧ c.acc[0]? = some 0) :
    Context.Inv n { c with state := .frameStart } :=
  h.withState (by simp) (fun _ => hb) (by simp)

theorem Context.Inv.toFrameActive {n : Nat} {c : Context} (h : c.Inv n) :
    Context.Inv n { c with state := .frameActive } :=
  h.withState (by simp) (by simp) (by simp)

theorem Context.Inv.toDataBitActive {n : Nat} {c : Context} (h : c.Inv n) :
    Context.Inv n { c with state := .dataBitActive } :=
  h.withState (by simp) (by simp) (by simp)

/-- Inside a frame (neither Idle nor FrameStart) soundness is about the slots and the cursors only. -/
theorem contextInv_of_cursors {n : Nat} {c : Context} (hs : c.state = .frameActive ∨ c.state = .dataBitActive)
    (hlen : c.acc.length = n) (hc : c.currentChannel ≤ n) (hb : c.currentBit < bits)
    (hp : ∀ a, c.acc[c.currentChannel]? = some a → a.toNat < 2 ^ c.currentBit)
    (hpark : c.currentChannel = n → c.currentBit = 0) : c.Inv n where
  slots := hlen
  reachable := .inr (.inr hs)
  channelLe := hc
  bitLt := hb
  partialLt := hp
  parked := hpark
  boundary h := by rcases hs with hs | hs <;> simp [hs] at h
  idleClean h := by rcases hs with hs | hs <;> simp [hs] at h

/-- A bit shifted into a partial word below `2^n` leaves one below `2^(n+1)`, while bits are missing (R18 item 3). -/
theorem shiftIn_lt {a : Word} {n : Nat} (d : Bool) (ha : a.toNat < 2 ^ n) (hn : n < bits) :
    (shiftIn a d).toNat < 2 ^ (n + 1) := by
  have hle : 2 ^ n ≤ 2 ^ 23 := Nat.pow_le_pow_right (by decide) (Nat.le_of_lt_succ hn)
  have hd : d.toNat ≤ 1 := Bool.toNat_le d
  rw [shiftIn_toNat d (Nat.lt_of_lt_of_le ha hle), Nat.pow_succ]
  omega

/-- on_data_bit keeps a context sound on each of its four paths (R68). -/
theorem onDataBit_keeps_inv {d : Bool} {s t : State} (h : s.ctx.Inv s.cfg.channels)
    (hs : s.ctx.state = .dataBitActive) (ht : onDataBit d s = .next t) : t.ctx.Inv s.cfg.channels := by
  obtain ⟨-, rfl⟩ | ⟨a, hc, ha, hpath⟩ := onDataBit_eq_next ht
  · exact contextInv_of_cursors (.inr hs) h.slots h.channelLe h.bitLt h.partialLt h.parked
  have hlt : s.ctx.currentChannel < s.cfg.channels := Nat.lt_of_le_of_ne h.channelLe hc
  have hslot : s.ctx.currentChannel < s.ctx.acc.length := h.slots ▸ hlt
  obtain ⟨hb, rfl⟩ | ⟨-, hn, rfl⟩ | ⟨-, hn, rfl⟩ := hpath
  · refine contextInv_of_cursors (.inr hs) (by simpa using h.slots) h.channelLe ?_ (fun w hw => ?_)
      (fun hpark => absurd hpark hc)
    · exact Nat.lt_of_le_of_ne h.bitLt hb
    · obtain rfl : shiftIn a d = w := by simpa [hslot] using hw
      exact shiftIn_lt d (h.partialLt a ha) h.bitLt
  · refine contextInv_of_cursors (.inr hs) (by simpa using h.slots) (Nat.le_of_lt hn) (Nat.zero_lt_succ 23)
      (fun w hw => ?_) (fun _ => rfl)
    have hw' : s.ctx.currentChannel + 1 < s.ctx.acc.length ∧ 0 = w := by simpa [List.getElem?_set] using hw
    exact zero_fits_emptySlot hw'.2
  · refine contextInv_of_cursors (.inr hs) (by simpa using h.slots) hlt (Nat.zero_lt_succ 23) (fun w hw => ?_)
      (fun _ => rfl)
    have hin : s.ctx.currentChannel + 1 < s.cfg.channels := by
      simpa [h.slots] using (List.getElem?_eq_some_iff.1 hw).1
    exact absurd hin hn

/-- on_frame_end, with its To state, leaves the zeroed boundary (R69). -/
theorem onFrameEnd_keeps_inv {s t : State} (h : s.ctx.Inv s.cfg.channels) (hn : 1 ≤ s.cfg.channels)
    (ht : onFrameEnd s = .next t) : Context.Inv s.cfg.channels { t.ctx with state := .frameStart } := by
  obtain ⟨-, rfl⟩ := onFrameEnd_eq_next.1 ht
  have h0 : (s.ctx.acc.set 0 0)[0]? = some 0 := List.getElem?_set_self (h.slots ▸ hn)
  exact
    { slots := by simpa using h.slots
      reachable := .inr (.inl rfl)
      channelLe := Nat.zero_le _
      bitLt := Nat.zero_lt_succ 23
      partialLt := fun w hw => zero_fits_emptySlot (Option.some.inj (h0.symm.trans hw))
      parked := fun _ => rfl
      boundary := fun _ => ⟨rfl, rfl, h0⟩
      idleClean := fun hi => DecoderState.noConfusion hi }

/-- The instruction a sample selects keeps a context sound, rule by rule. -/
theorem exec_instrFor_keeps_inv {s u : State} {b : Sample} (h : s.ctx.Inv s.cfg.channels) (hn : 1 ≤ s.cfg.channels)
    (hu : exec (instrFor s b) s = .next u) : u.ctx.Inv s.cfg.channels := by
  obtain ⟨hq, -, he⟩ | ⟨-, -, he⟩ | ⟨-, -, he⟩ | ⟨hq, -, he⟩ | ⟨-, -, -, he⟩ | ⟨-, he⟩ := exec_instrFor_cases s b
  all_goals rw [he] at hu
  · cases hu
    exact h.toFrameStart (h.boundary (.inl hq))
  · cases hu
    exact h.toFrameActive
  · cases hu
    exact h.toDataBitActive
  · obtain ⟨v, hv, rfl⟩ := takeRule_eq_next.1 hu
    exact (onDataBit_keeps_inv h hq hv).toFrameActive
  · obtain ⟨v, hv, rfl⟩ := takeRule_eq_next.1 hu
    exact onFrameEnd_keeps_inv h hn hv
  · cases hu
    exact h

/-- The encoder ends the step of a started machine with nothing held over (R21). -/
theorem present_inv {u : State} (hl : u.cfg.Legal) (hw : u.wasReset = true) (hc : u.ctx.Inv u.cfg.channels) :
    (present u).Inv :=
  ⟨hl, hw, hc, rfl, rfl⟩

/-- Settles O34: by the inversion of the step; a reset edge gives the reset context, a cycle without a sample keeps the
context, and a sample's instruction keeps it sound. -/
theorem everyStepKeepsTheInvariants : Obligations.EveryStepKeepsTheInvariants := by
  intro s t hs h
  obtain ⟨c, rest, -, -, rfl⟩ | ⟨-, _, _, rfl⟩ | ⟨c, rest, -, -, -, _, _, rfl⟩ |
    ⟨c, rest, u, -, -, -, -, hu, _, _, rfl⟩ := step_eq_next h
  · exact applyReset_inv hs.legal
  · exact present_inv hs.legal hs.started hs.context
  · exact present_inv hs.legal hs.started hs.context
  · have hctx : u.ctx.Inv s.cfg.channels :=
      exec_instrFor_keeps_inv (s := { s with input := rest, lost := c.lost }) hs.context hs.legal.1 hu
    rw [exec_instrFor_outside (s := { s with input := rest, lost := c.lost }) hu]
    exact present_inv hs.legal hs.started hctx

/-! ### Completion -/

/-- A sound machine has the slots it emits (R6, R30). -/
theorem State.Inv.emitInRange {s : State} (h : s.Inv) : s.cfg.nEmit ≤ s.ctx.acc.length := by
  obtain ⟨-, -, hn, -⟩ := h.legal
  exact h.context.slots ▸ hn

/-- A bit for a slot that exists is shifted in, and the cursors advance (R68). -/
theorem onDataBit_captures (d : Bool) {s : State} {a : Word} (h : s.ctx.currentChannel ≠ s.cfg.channels)
    (ha : s.ctx.acc[s.ctx.currentChannel]? = some a) :
    onDataBit d s = .next (advanceCursor (writeSlot s.ctx.currentChannel (shiftIn a d) s)) := by
  simp [onDataBit, allSlotsFull, cursorSlot, readSlot, h, ha]

/-- on_data_bit completes in a sound context: the cursor is parked or addresses a slot (R26). -/
theorem onDataBit_completes (d : Bool) {s : State} (h : s.ctx.Inv s.cfg.channels) : ∃ t, onDataBit d s = .next t := by
  by_cases hc : s.ctx.currentChannel = s.cfg.channels
  · exact ⟨_, onDataBit_full d hc⟩
  · have hslot : s.ctx.currentChannel < s.ctx.acc.length := h.slots ▸ Nat.lt_of_le_of_ne h.channelLe hc
    exact ⟨_, onDataBit_captures d hc (List.getElem?_eq_getElem hslot)⟩

/-- The instruction of a sample completes in a sound context with a legal `N_EMIT` (R64). -/
theorem exec_instrFor_completes {s : State} (b : Sample) (h : s.ctx.Inv s.cfg.channels)
    (hn : s.cfg.nEmit ≤ s.ctx.acc.length) : ∃ u, exec (instrFor s b) s = .next u := by
  obtain ⟨-, -, he⟩ | ⟨-, -, he⟩ | ⟨-, -, he⟩ | ⟨-, -, he⟩ | ⟨-, -, -, he⟩ | ⟨-, he⟩ := exec_instrFor_cases s b
  all_goals rw [he]
  · exact ⟨_, rfl⟩
  · exact ⟨_, rfl⟩
  · exact ⟨_, rfl⟩
  · obtain ⟨v, hv⟩ := onDataBit_completes (dataLine b) h
    exact ⟨_, takeRule_eq_next.2 ⟨v, hv, rfl⟩⟩
  · exact ⟨_, takeRule_eq_next.2 ⟨_, onFrameEnd_eq_next.2 ⟨hn, rfl⟩, rfl⟩⟩
  · exact ⟨_, rfl⟩

/-- From a sound machine a step with a sample completes. -/
theorem step_completes_of_presents {s : State} {b : Sample} {rest : List Cycle} (h : s.Inv) (hp : s.Presents b rest) :
    ∃ t, step s = .next t :=
  step_completes_of_exec h.started hp fun lost =>
    exec_instrFor_completes (s := { s with input := rest, lost := lost }) b h.context h.emitInRange

/-! ### The fault flag: when it is set -/

/-- The next cycle brings a data bit that finds every slot full (R68, R87). -/
def PresentsOverflow (s : State) (b : Sample) : Prop :=
  s.ctx.state = .dataBitActive ∧ bitClock b = false ∧ s.ctx.currentChannel = s.cfg.channels

theorem onDataBit_faultOverflow {d : Bool} {s t : State} (h : onDataBit d s = .next t) :
    t.ctx.faultOverflow = true ↔ s.ctx.faultOverflow = true ∨ s.ctx.currentChannel = s.cfg.channels := by
  obtain ⟨hc, rfl⟩ | ⟨a, hc, -, ⟨-, rfl⟩ | ⟨-, -, rfl⟩ | ⟨-, -, rfl⟩⟩ := onDataBit_eq_next h <;> simp [hc]

/-- After a sample's instruction the flag is set if it was, or if the sample overflows (R17). -/
theorem exec_instrFor_faultOverflow {s u : State} {b : Sample} (hu : exec (instrFor s b) s = .next u) :
    u.ctx.faultOverflow = true ↔ s.ctx.faultOverflow = true ∨ PresentsOverflow s b := by
  unfold PresentsOverflow
  obtain ⟨hq, -, he⟩ | ⟨hq, -, he⟩ | ⟨hq, -, he⟩ | ⟨hq, hc, he⟩ | ⟨hq, -, -, he⟩ | ⟨hno, he⟩ := exec_instrFor_cases s b
  all_goals rw [he] at hu
  · cases hu
    simp [hq]
  · cases hu
    simp [hq]
  · cases hu
    simp [hq]
  · obtain ⟨v, hv, rfl⟩ := takeRule_eq_next.1 hu
    simp [hq, hc, onDataBit_faultOverflow hv]
  · obtain ⟨v, hv, rfl⟩ := takeRule_eq_next.1 hu
    obtain ⟨-, rfl⟩ := onFrameEnd_eq_next.1 hv
    simp [hq]
  · cases hu
    obtain ⟨-, -, -, hd, -⟩ := (noRuleMatches_iff _ _ _).1 hno
    exact ⟨.inl, fun h => h.resolve_right fun ⟨hq, hc, _⟩ => hd ⟨hq, hc⟩⟩

/-- The flag after a step: clear at a reset edge; else set if it was, or if the sample overflows (R17). -/
theorem step_faultOverflow {s t : State} (h : step s = .next t) :
    (∃ c rest, s.input = c :: rest ∧ c.rst = true ∧ t.ctx.faultOverflow = false) ∨
      (t.ctx.faultOverflow = true ↔
        s.ctx.faultOverflow = true ∨ ∃ b, presentedSample s = some b ∧ PresentsOverflow s b) := by
  obtain ⟨c, rest, hin, hr, rfl⟩ | ⟨hin, _, _, rfl⟩ | ⟨c, rest, hin, hr, hv, _, _, rfl⟩ |
    ⟨c, rest, u, hin, hr, hv, -, hu, _, _, rfl⟩ := step_eq_next h
  · exact .inl ⟨c, rest, hin, hr, rfl⟩
  · exact .inr (by simp [presentedSample, hin])
  · exact .inr (by simp [presentedSample_cons hin, hr, hv])
  · have hflag := exec_instrFor_faultOverflow (s := { s with input := rest, lost := c.lost }) hu
    refine .inr ?_
    simp only [presentedSample_cons hin, hr, hv, Bool.false_eq_true, if_false, if_true, Option.some.injEq,
      exists_eq_left']
    exact hflag

/-- The step sets the flag at an overflowing data bit only. -/
theorem step_sets_flag_of_overflow {s t : State} (h : step s = .next t) (hs : s.ctx.faultOverflow = false)
    (ht : t.ctx.faultOverflow = true) :
    ∃ b rest, s.Presents b rest ∧ PresentsOverflow s b := by
  obtain ⟨_, _, -, -, hf⟩ | hiff := step_faultOverflow h
  · simp [ht] at hf
  · obtain ⟨b, hb, ho⟩ : ∃ b, presentedSample s = some b ∧ PresentsOverflow s b := by simpa [hs] using hiff.1 ht
    obtain ⟨rest, hp⟩ := presentedSample_eq_some.1 hb
    exact ⟨b, rest, hp, ho⟩

/-- Only a reset edge clears the flag. -/
theorem step_clears_flag_of_reset {s t : State} (h : step s = .next t) (hs : s.ctx.faultOverflow = true)
    (ht : t.ctx.faultOverflow = false) : ∃ c rest, s.input = c :: rest ∧ c.rst = true := by
  obtain ⟨c, rest, hin, hr, -⟩ | hiff := step_faultOverflow h
  · exact ⟨c, rest, hin, hr⟩
  · simp [hs, ht] at hiff

/-- An overflowing data bit always completes and leaves the flag set. -/
theorem step_of_overflow {s : State} {b : Sample} {rest : List Cycle} (hw : s.wasReset = true)
    (hp : s.Presents b rest) (ho : PresentsOverflow s b) : ∃ t, step s = .next t ∧ t.ctx.faultOverflow = true := by
  obtain ⟨hq, hc, hfull⟩ := ho
  have hi : instrFor s b = .bitShift (ignoredBits b) (dataLine b) (frameStrobe b) := by
    simp [instrFor, decodeKey_lookupKey, hq, hc]
  obtain ⟨t, ht⟩ := step_completes_of_exec hw hp fun lost => by
    rw [hi]
    exact ⟨_, takeRule_eq_next.2 ⟨_, onDataBit_full (s := { s with input := rest, lost := lost }) _ hfull, rfl⟩⟩
  refine ⟨t, ht, ?_⟩
  obtain ⟨c, rest', hin, hr, -⟩ | hiff := step_faultOverflow ht
  · obtain ⟨lost, hin'⟩ := hp
    cases hin.symm.trans hin'
    cases hr
  · exact hiff.2 (.inr ⟨b, presentedSample_eq_some.2 ⟨rest, hp⟩, hq, hc, hfull⟩)

/-! ### The fault flag: no step reads it -/

/-- `s` with the fault flag at `v`. -/
def State.withFlag (v : Bool) (s : State) : State := { s with ctx := { s.ctx with faultOverflow := v } }

/-- `u` is `t` but for the fault flag. -/
def DifferInFlag (t u : State) : Prop := t.withFlag u.ctx.faultOverflow = u

/-- Related outcomes followed by related continuations are related. -/
theorem sameOutcome_andThen {r r' : State → State → Prop} {x y : Result} {f g : State → Result}
    (hxy : sameOutcome r x y) (hfg : ∀ t u, r t u → sameOutcome r' (f t) (g u)) :
    sameOutcome r' (andThen x f) (andThen y g) := by
  cases x with
  | next t =>
    cases y with
    | next u => exact hfg t u hxy
    | fault _ => exact False.elim hxy
    | refused _ => exact False.elim hxy
  | fault _ =>
    cases y with
    | fault _ => exact hxy
    | next _ => exact False.elim hxy
    | refused _ => exact False.elim hxy
  | refused _ =>
    cases y with
    | refused _ => exact hxy
    | next _ => exact False.elim hxy
    | fault _ => exact False.elim hxy

theorem advanceCursor_withFlag (v : Bool) (s : State) :
    advanceCursor (s.withFlag v) = (advanceCursor s).withFlag v := by
  simp only [advanceCursor, apply_ite (State.withFlag v)]
  rfl

theorem onDataBit_withFlag (d v : Bool) (s : State) :
    sameOutcome DifferInFlag (onDataBit d s) (onDataBit d (s.withFlag v)) := by
  by_cases hc : s.ctx.currentChannel = s.cfg.channels
  · rw [onDataBit_full d hc, onDataBit_full d (s := s.withFlag v) hc]
    rfl
  · cases ha : s.ctx.acc[s.ctx.currentChannel]? with
    | none =>
      rw [onDataBit_outOfRange d hc ha, onDataBit_outOfRange d (s := s.withFlag v) hc ha]
      rfl
    | some a =>
      rw [onDataBit_captures d hc ha, onDataBit_captures d (s := s.withFlag v) hc ha]
      have h := advanceCursor_withFlag v (writeSlot s.ctx.currentChannel (shiftIn a d) s)
      exact h ▸ rfl

theorem onFrameEnd_withFlag (v : Bool) (s : State) :
    sameOutcome DifferInFlag (onFrameEnd s) (onFrameEnd (s.withFlag v)) := by
  by_cases hn : s.cfg.nEmit ≤ s.ctx.acc.length
  · rw [onFrameEnd_eq_next.2 ⟨hn, rfl⟩, (onFrameEnd_eq_next (s := s.withFlag v)).2 ⟨hn, rfl⟩]
    rfl
  · rw [onFrameEnd_outOfRange (Nat.lt_of_not_le hn), onFrameEnd_outOfRange (s := s.withFlag v) (Nat.lt_of_not_le hn)]
    rfl

theorem takeRule_differInFlag {act : State → Result} {s u : State} (q : DecoderState)
    (h : sameOutcome DifferInFlag (act s) (act u)) :
    sameOutcome DifferInFlag (takeRule act q s) (takeRule act q u) :=
  sameOutcome_andThen h fun t w htw => by
    rw [← htw]
    rfl

/-- No instruction reads the flag. -/
theorem exec_withFlag (i : Instr) (v : Bool) (s : State) :
    sameOutcome DifferInFlag (exec i s) (exec i (s.withFlag v)) := by
  cases i with
  | bitShift x d strobe => exact takeRule_differInFlag .frameActive (onDataBit_withFlag d v s)
  | frameTurn x d c => exact takeRule_differInFlag .frameStart (onFrameEnd_withFlag v s)
  | frameOpen x d c => rfl
  | frameArm x d c => rfl
  | clkHigh x d strobe => rfl
  | hold q x d c strobe => rfl
  | encBinary => rfl
  | encHuman => rfl

/-- No step reads the flag: not the fetch, nor the instruction, nor the encoder (R17). -/
theorem step_withFlag (v : Bool) (s : State) : sameOutcome DifferInFlag (step s) (step (s.withFlag v)) := by
  cases hin : s.input with
  | nil =>
    rw [step, step, fetch_nil hin, fetch_nil (s := s.withFlag v) hin]
    exact exec_withFlag (encoderInstr s) v s
  | cons c rest =>
    cases hr : c.rst with
    | true =>
      rw [step, step, fetch_reset hin hr, fetch_reset (s := s.withFlag v) hin hr]
      rfl
    | false =>
      cases hv : c.sampleValid with
      | false =>
        rw [step, step, fetch_idle hin hr hv, fetch_idle (s := s.withFlag v) hin hr hv]
        exact exec_withFlag (encoderInstr s) v { s with input := rest, lost := c.lost }
      | true =>
        cases hw : s.wasReset with
        | false =>
          rw [step, step, fetch_beforeReset hin hr hv hw, fetch_beforeReset (s := s.withFlag v) hin hr hv hw]
          rfl
        | true =>
          rw [step, step, fetch_sample hin hr hv hw, fetch_sample (s := s.withFlag v) hin hr hv hw]
          refine sameOutcome_andThen (exec_withFlag (instrFor s c.sample) v { s with input := rest, lost := c.lost })
            fun t u htu => ?_
          rw [← htu]
          exact exec_withFlag (encoderInstr t) _ t

/-- Settles O36: the flag after a step is known from the flag, the state, the cursor and the sample, and no part of the
step reads it. -/
theorem faultFlagIsStickyAndUnread : Obligations.FaultFlagIsStickyAndUnread :=
  ⟨fun _ _ h hs ht => step_sets_flag_of_overflow h hs ht,
    fun _ _ _ hw hp hq hc hfull => step_of_overflow hw hp ⟨hq, hc, hfull⟩,
    fun _ _ h hs ht => step_clears_flag_of_reset h hs ht,
    fun s v => step_withFlag v s,
    rfl⟩

/-! ### The event list of a step -/

theorem resultEvents_takeRule (act : State → Result) (q : DecoderState) (s : State) :
    resultEvents (takeRule act q s) = resultEvents (act s) := by
  cases h : act s <;> simp [takeRule, h, resultEvents]

/-- on_data_bit emits nothing (R68). -/
theorem resultEvents_onDataBit (d : Bool) {s : State} (h : s.events = []) : resultEvents (onDataBit d s) = [] := by
  cases hr : onDataBit d s with
  | next t =>
    rw [onDataBit_outside hr]
    exact h
  | fault e => rfl
  | refused e => rfl

theorem resultEvents_onFrameEnd {s : State} (hn : s.cfg.nEmit ≤ s.ctx.acc.length) :
    resultEvents (onFrameEnd s) = s.events ++ (emitOperands s ++ [.closed, .opened]) := by
  rw [onFrameEnd, if_pos hn]
  rfl

/-- The event list of a cycle with a sample, by the rule that fires (R22). -/
theorem cycleEvents_of_presented {s : State} {b : Sample} (h : s.Inv) (hp : presentedSample s = some b) :
    cycleEvents s =
      if s.ctx.state = .idle ∧ frameStrobe b = true then [.opened]
      else if s.ctx.state = .frameActive ∧ bitClock b = false ∧ frameStrobe b = true then
        emitOperands s ++ [.closed, .opened]
      else [] := by
  rw [cycleEvents_sample hp]
  obtain ⟨hq, hs, he⟩ | ⟨hq, -, he⟩ | ⟨hq, hc, he⟩ | ⟨hq, -, he⟩ | ⟨hq, hc, hs, he⟩ | ⟨hno, he⟩ :=
    exec_instrFor_cases s b
  all_goals simp only [he, resultEvents_takeRule]
  · simp [hq, hs, onFrameStart, resultEvents, h.noEvents]
  · simp [hq, onNone, resultEvents, h.noEvents]
  · simp [hq, hc, onNone, resultEvents, h.noEvents]
  · simp [hq, resultEvents_onDataBit _ h.noEvents]
  · simp [hq, hc, hs, resultEvents_onFrameEnd h.emitInRange, h.noEvents]
  · obtain ⟨hopen, -, -, -, hturn⟩ := (noRuleMatches_iff _ _ _).1 hno
    rw [if_neg hopen, if_neg fun ⟨hq, _, hs⟩ => hturn ⟨hq, hs⟩]
    exact h.noEvents

/-- The events a step presents are those of its cycle, if nothing was held over (R21, R22). -/
theorem step_presented {s t : State} (hev : s.events = []) (h : step s = .next t) :
    t.presented = s.presented ++ cycleEvents s := by
  obtain ⟨c, rest, hin, hr, rfl⟩ | ⟨hin, _, _, rfl⟩ | ⟨c, rest, hin, hr, hv, _, _, rfl⟩ |
    ⟨c, rest, u, hin, hr, hv, -, hu, _, _, rfl⟩ := step_eq_next h
  · have hp : presentedSample s = none := by simp [presentedSample_cons hin, hr]
    simp [(ports_noSample hp).1]
  · have hp : presentedSample s = none := by simp [presentedSample, hin]
    simp [(ports_noSample hp).1, hev]
  · have hp : presentedSample s = none := by simp [presentedSample_cons hin, hr, hv]
    simp [(ports_noSample hp).1, hev]
  · have hp : presentedSample s = some c.sample := by simp [presentedSample_cons hin, hr, hv]
    have hout := exec_instrFor_outside (s := { s with input := rest, lost := c.lost }) hu
    have hpres : u.presented = s.presented := by rw [hout]
    have hevents : u.events = cycleEvents s := by
      rw [cycleEvents_sample hp, ← resultEvents_exec_input (instrFor s c.sample) s rest c.lost, hu]
      rfl
    simp [hpres, hevents]

/-- The emitted words, slot by slot (R69). -/
theorem emitOperands_eq_map {s : State} (hn : s.cfg.nEmit ≤ s.ctx.acc.length) :
    emitOperands s = (List.range s.cfg.nEmit).map (fun k => Event.word k (s.ctx.acc.getD k 0)) := by
  apply List.ext_getElem?
  intro k
  rw [emitOperands, wordEvents_getElem?, List.getElem?_map, List.getElem?_take, Nat.zero_add]
  by_cases hk : k < s.cfg.nEmit
  · have hlen : k < s.ctx.acc.length := Nat.lt_of_lt_of_le hk hn
    simp [hk, hlen]
  · simp [hk]

theorem completedWords_append (es fs : List Event) :
    completedWords (es ++ fs) = completedWords es ++ completedWords fs := by
  induction es with
  | nil => rfl
  | cons e es ih => cases e <;> simp [completedWords, ih]

theorem completedWords_map_word (f : Nat → Word) (ks : List Nat) :
    completedWords (ks.map (fun k => Event.word k (f k))) = ks.map (fun k => (k, f k)) := by
  induction ks with
  | nil => rfl
  | cons k ks ih => simp [completedWords, ih]

/-- Settles O39: a sound machine completes the step and presents the events of the cycle, rule by rule. -/
theorem eventListOfAStep : Obligations.EventListOfAStep := by
  intro s b rest hs hp
  obtain ⟨t, ht⟩ := step_completes_of_presents hs hp
  have hes := cycleEvents_of_presented hs (presentedSample_eq_some.2 ⟨rest, hp⟩)
  rw [emitOperands_eq_map hs.emitInRange] at hes
  refine ⟨t, cycleEvents s, ht, step_presented hs.noEvents ht, hes, ?_⟩
  rw [hes]
  split_ifs with hopen hturn
  · simp [hopen.1] at hturn
  · rfl
  · rw [completedWords_append, completedWords_map_word]
    exact List.append_nil _
  · rfl

/-! ### The ports -/

theorem eventWords_ne_nil_iff (es : List Event) : eventWords es ≠ [] ↔ ∃ k w, Event.word k w ∈ es := by
  induction es with
  | nil => simp [eventWords]
  | cons e es ih =>
    cases e with
    | opened => simpa [eventWords] using ih
    | word k w => exact iff_of_true (List.cons_ne_nil _ _) ⟨k, w, List.mem_cons_self⟩
    | closed => simpa [eventWords] using ih

theorem eventWords_append (es fs : List Event) : eventWords (es ++ fs) = eventWords es ++ eventWords fs := by
  induction es with
  | nil => rfl
  | cons e es ih => cases e <;> simp [eventWords, ih]

theorem eventWords_wordEvents (k : Nat) (ws : List Word) : eventWords (wordEvents k ws) = ws := by
  induction ws generalizing k with
  | nil => rfl
  | cons w ws ih => simp [wordEvents, eventWords, ih]

/-- Word(k, w) is among the words emitted from index 0 exactly when `w` stands at place `k` (R69). -/
theorem mem_wordEvents_zero (k : Nat) (w : Word) (ws : List Word) :
    Event.word k w ∈ wordEvents 0 ws ↔ ws[k]? = some w := by
  simp only [List.mem_iff_getElem?, wordEvents_getElem?, Option.map_eq_some_iff, Nat.zero_add, Event.word.injEq]
  constructor
  · rintro ⟨_, _, hw, rfl, rfl⟩
    exact hw
  · exact fun hw => ⟨k, w, hw, rfl, rfl⟩

/-- A cycle of a sound machine that shows words is a frame end: it shows the first `N_EMIT` accumulators (R23, R69). -/
theorem cycleEvents_of_words {s : State} (h : s.Inv) (hw : eventWords (cycleEvents s) ≠ []) :
    cycleEvents s = wordEvents 0 (s.ctx.acc.take s.cfg.nEmit) ++ [.closed, .opened] := by
  cases hp : presentedSample s with
  | none => exact absurd (by rw [(ports_noSample hp).1]; rfl) hw
  | some b =>
    have hes := cycleEvents_of_presented h hp
    split_ifs at hes
    · rw [hes] at hw
      exact absurd rfl hw
    · exact hes
    · rw [hes] at hw
      exact absurd rfl hw

theorem ports_wordValid_iff (s : State) : (ports s).wordValid = true ↔ eventWords (cycleEvents s) ≠ [] := by
  simp [ports]

/-- While `word_valid` is 1, `word_out` shows the first `N_EMIT` accumulators (R23, R69). -/
theorem wordOut_of_wordValid {s : State} (h : s.Inv) (hv : (ports s).wordValid = true) :
    (ports s).wordOut = some (s.ctx.acc.take s.cfg.nEmit) := by
  have hw := (ports_wordValid_iff s).1 hv
  have hwords : eventWords (cycleEvents s) = s.ctx.acc.take s.cfg.nEmit := by
    rw [cycleEvents_of_words h hw, eventWords_append, eventWords_wordEvents]
    exact List.append_nil _
  exact (wordOutPort_of_words hw).trans (congrArg some hwords)

/-- In a cycle with a sample and no Word event `word_out` has no value (log entry 13). -/
theorem wordOut_of_not_wordValid {s : State} {b : Sample} (hp : presentedSample s = some b)
    (hv : ¬ (ports s).wordValid = true) : (ports s).wordOut = none := by
  rw [ports_wordValid_iff, not_not] at hv
  simp [ports, wordOutPort, hp, hv]

/-- What a value of `word_out` says: `word_out[k]` is the word of Word(k, w), or all are 0 without a sample (R23). -/
theorem wordOut_meaning {s : State} (h : s.Inv) {ws : List Word} (hws : (ports s).wordOut = some ws) :
    ((ports s).wordValid = true ∧ ∀ k w, ws[k]? = some w ↔ Event.word k w ∈ cycleEvents s) ∨
      ((∀ b rest, ¬ s.Presents b rest) ∧ ws = List.replicate s.cfg.nEmit 0) := by
  cases hp : presentedSample s with
  | none =>
    obtain ⟨-, -, -, -, hout⟩ := ports_noSample hp
    exact .inr ⟨presentedSample_eq_none.1 hp, Option.some.inj (hws.symm.trans hout)⟩
  | some b =>
    by_cases hv : (ports s).wordValid = true
    · obtain rfl : s.ctx.acc.take s.cfg.nEmit = ws := Option.some.inj ((wordOut_of_wordValid h hv).symm.trans hws)
      refine .inl ⟨hv, fun k w => ?_⟩
      rw [cycleEvents_of_words h ((ports_wordValid_iff s).1 hv), ← mem_wordEvents_zero]
      simp
    · rw [wordOut_of_not_wordValid hp hv] at hws
      cases hws

/-- `CC_W` bits hold every value of the channel cursor (R6, R15). -/
theorem dbgChannel_toNat {s : State} (h : s.ctx.currentChannel ≤ s.cfg.channels) :
    (ports s).dbgChannel.toNat = s.ctx.currentChannel := by
  have hw : s.cfg.channels < 2 ^ ccW s.cfg.channels := Nat.lt_log2_self
  exact Nat.mod_eq_of_lt (Nat.lt_of_le_of_lt h hw)

/-- `CB_W` bits hold every value of the bit cursor (R6, R16). -/
theorem dbgBit_toNat {s : State} (h : s.ctx.currentBit < bits) : (ports s).dbgBit.toNat = s.ctx.currentBit :=
  Nat.mod_eq_of_lt (Nat.lt_trans h (by decide))

/-- Settles O40: the event outputs are read off the cycle's events, and the cursors fit their ports. -/
theorem portsShowTheStep : Obligations.PortsShowTheStep := by
  intro s t hs h
  refine ⟨step_presented hs.noEvents h, List.contains_iff_mem, List.contains_iff_mem, ?_,
    fun ws hws => wordOut_meaning hs hws, fun hv => ?_, rfl, rfl, dbgChannel_toNat hs.context.channelLe,
    dbgBit_toNat hs.context.bitLt, rfl, fun hp => (ports_noSample (presentedSample_eq_none.2 hp)).2⟩
  · exact (ports_wordValid_iff s).trans (eventWords_ne_nil_iff _)
  · exact ⟨_, wordOut_of_wordValid hs hv, List.length_take_of_le hs.emitInRange⟩

end Sys2Proof.Machine

end

section
/-! PROOFS. Memory and order (spec/20_memory.md): every step of a sound machine completes, takes the next cycle of the
input and only appends to the outputs. -/

namespace Sys2Proof.Machine

/-! ### Every step completes -/

/-- A cycle that brings no sample completes from any machine, the reset edge included (R98, R100). -/
theorem step_completes_of_noSample {s : State} (hp : presentedSample s = none) : ∃ t, step s = .next t := by
  cases hin : s.input with
  | nil =>
    obtain ⟨bs, ts, he⟩ := exec_encoder s
    exact ⟨_, by rw [step, fetch_nil hin]; exact he⟩
  | cons c rest =>
    cases hr : c.rst with
    | true => exact ⟨_, by rw [step, fetch_reset hin hr]⟩
    | false =>
      have hv : c.sampleValid = false := by simpa [presentedSample_cons hin, hr] using hp
      obtain ⟨bs, ts, he⟩ := exec_encoder { s with input := rest, lost := c.lost }
      exact ⟨_, by rw [step, fetch_idle hin hr hv]; exact he⟩

/-- Settles O35: a sample finds a sound context, where its instruction completes; a cycle without one always completes. -/
theorem soundMachineNeverStops : Obligations.SoundMachineNeverStops := by
  intro s hs
  cases hp : presentedSample s with
  | none => exact step_completes_of_noSample hp
  | some b =>
    obtain ⟨rest, hb⟩ := presentedSample_eq_some.1 hp
    exact step_completes_of_presents hs hb

/-! ### The outputs only grow -/

/-- The presented events and both sinks of `t` are those of `s` with something appended (R33, R109). -/
structure OutputsExtend (s t : State) : Prop where
  presented : s.presented <+: t.presented
  byteSink  : s.byteSink <+: t.byteSink
  textSink  : s.textSink <+: t.textSink

/-- The encoder operation appends to the presented events and to the sink of its mode (R77). -/
theorem encoder_extends_outputs {s t : State} (h : exec (encoderInstr s) s = .next t) : OutputsExtend s t := by
  cases hm : s.cfg.outMode with
  | binary =>
    rw [encoderInstr_binary hm] at h
    cases h
    exact ⟨List.prefix_append _ _, List.prefix_append _ _, List.prefix_rfl⟩
  | human =>
    rw [encoderInstr_human hm] at h
    cases h
    exact ⟨List.prefix_append _ _, List.prefix_rfl, List.prefix_append _ _⟩

/-- The encoder operation takes no cycle. -/
theorem encoder_keeps_input {s t : State} (h : exec (encoderInstr s) s = .next t) : t.input = s.input := by
  obtain ⟨bs, ts, he⟩ := exec_encoder s
  cases he.symm.trans h
  rfl

/-! ### What the encoder is given -/

/-- A step to a next state is a reset edge, or ends with the encoder operation on a machine that has the next cycle taken
and differs from `s` elsewhere in the context and what the cycle itself brings only (R64, R77). -/
theorem step_eq_reset_or_encoder {s t : State} (h : step s = .next t) :
    (∃ lost, t = applyReset { s with input := s.input.tail, lost := lost }) ∨
      ∃ u, u = { s with ctx := u.ctx, events := u.events, input := s.input.tail, lost := u.lost } ∧
        exec (encoderInstr u) u = .next t := by
  cases hin : s.input with
  | nil =>
    rw [step, fetch_nil hin] at h
    exact .inr ⟨s, by rw [List.tail_nil, ← hin], h⟩
  | cons c rest =>
    cases hr : c.rst with
    | true =>
      rw [step, fetch_reset hin hr] at h
      cases h
      exact .inl ⟨c.lost, rfl⟩
    | false =>
      cases hv : c.sampleValid with
      | false =>
        rw [step, fetch_idle hin hr hv] at h
        exact .inr ⟨_, rfl, h⟩
      | true =>
        by_cases hw : s.wasReset = true
        · rw [step, fetch_sample hin hr hv hw] at h
          obtain ⟨u, hu, ht⟩ := andThen_eq_next.1 h
          have hout := exec_instrFor_outside (s := { s with input := rest, lost := c.lost }) hu
          exact .inr ⟨u, by rw [hout]; rfl, ht⟩
        · rw [step, fetch_beforeReset hin hr hv (Bool.eq_false_of_not_eq_true hw)] at h
          cases h

/-- Settles O43: a reset edge leaves the outputs as they are, and any other step ends with the encoder, which appends. -/
theorem outputsAndInputsKeepTheirOrder : Obligations.OutputsAndInputsKeepTheirOrder := by
  intro s t h
  obtain ⟨lost, rfl⟩ | ⟨u, hu, ht⟩ := step_eq_reset_or_encoder h
  · exact ⟨rfl, List.prefix_rfl, List.prefix_rfl, List.prefix_rfl⟩
  · have hinput := encoder_keeps_input ht
    obtain ⟨hpres, hbytes, htext⟩ := encoder_extends_outputs ht
    rw [hu] at hinput hpres hbytes htext
    exact ⟨hinput, hpres, hbytes, htext⟩

end Sys2Proof.Machine

end

section
/-! PROOFS. Encoding and the table (spec/30_encoding.md): the decoder against the encoder and against the rule table,
what of a sample and of the machine a step depends on, and the pseudo-operations. -/

namespace Sys2Proof.Machine

/-! ### Decoding and encoding -/

/-- Settles O1: row by row, as the word holds the row's From state and its fields; well-formedness is what keeps
FRAME_TURN and HOLD from falling to an earlier row. -/
theorem decodeOfEncodeIsTheInstruction : Obligations.DecodeOfEncodeIsTheInstruction := by
  intro i hwf
  cases i with
  | frameOpen x d c => simp [encode, decode, decodeKey_lookupKey]
  | frameArm x d c => simp [encode, decode, decodeKey_lookupKey]
  | clkHigh x d s => simp [encode, decode, decodeKey_lookupKey]
  | bitShift x d s => simp [encode, decode, decodeKey_lookupKey]
  | frameTurn x d c =>
    obtain rfl : c = false := by simpa [Instr.wf] using hwf
    simp [encode, decode, decodeKey_lookupKey]
  | hold q x d c s =>
    obtain ⟨h1, h2, h3, h4, h5⟩ := (noRuleMatches_iff q c s).1 hwf
    simp only [encode, decode, decodeKey_lookupKey, frameStrobe_sampleOf, bitClock_sampleOf, dataLine_sampleOf,
      ignoredBits_sampleOf, if_neg h1, if_neg h2, if_neg h3, if_neg h4, if_neg h5]
  | encBinary => rfl
  | encHuman => rfl

/-- The word of the instruction a state and a sample select is their key, row by row. -/
theorem encode_decodeKey_lookupKey (q : DecoderState) (b : Sample) :
    encode (decodeKey (lookupKey q b)) = .key (lookupKey q b) := by
  have hb := sampleOf_fields b
  rw [decodeKey_lookupKey]
  split_ifs with h1 h2 h3 h4 h5
  · rw [h1.2] at hb; rw [encode, hb, h1.1]
  · rw [h2.2] at hb; rw [encode, hb, h2.1]
  · rw [h3.2] at hb; rw [encode, hb, h3.1]
  · rw [h4.2] at hb; rw [encode, hb, h4.1]
  · rw [h5.2] at hb; rw [encode, hb, h5.1]
  · rw [encode, hb]

/-- FRAME_TURN is reached only past CLK_HIGH, and HOLD only past all five rules (R44). -/
theorem decodeKey_lookupKey_wf (q : DecoderState) (b : Sample) : (decodeKey (lookupKey q b)).wf = true := by
  rw [decodeKey_lookupKey]
  split_ifs with h1 h2 h3 h4 h5
  · rfl
  · rfl
  · rfl
  · rfl
  · simpa [Instr.wf, h5.1] using h3
  · exact (noRuleMatches_iff _ _ _).2 ⟨h1, h2, h3, h4, h5⟩

theorem decodeKey_lookupKey_ne_encoder (q : DecoderState) (b : Sample) :
    decodeKey (lookupKey q b) ≠ .encBinary ∧ decodeKey (lookupKey q b) ≠ .encHuman := by
  rw [decodeKey_lookupKey]
  split_ifs <;> exact ⟨Instr.noConfusion, Instr.noConfusion⟩

theorem encode_decodeOutMode (m : BitVec 1) :
    encode (decodeOutMode m) = .outMode m ∧ (decodeOutMode m).wf = true := by
  revert m; decide

/-- Settles O2: a key is the lookup key of its own fields, so the facts about states and samples cover all keys. -/
theorem everyWordIsTheEncodingOfItsDecoding : Obligations.EveryWordIsTheEncodingOfItsDecoding := by
  refine ⟨fun e => ?_, fun k => ?_⟩
  · cases e with
    | key k =>
      rw [← lookupKey_fields k]
      exact ⟨encode_decodeKey_lookupKey _ _, decodeKey_lookupKey_wf _ _⟩
    | outMode m => exact encode_decodeOutMode m
  · rw [← lookupKey_fields k]
    exact decodeKey_lookupKey_ne_encoder _ _

/-- Settles O3: twelve words, evaluated. -/
theorem specWordsDecodeToTheirRows : Obligations.SpecWordsDecodeToTheirRows := by
  unfold Obligations.SpecWordsDecodeToTheirRows
  decide

/-! ### The rule table -/

/-- The first rule that matches, by state and lines (R45). -/
theorem lookup_eq_by_lines (q : DecoderState) (b : Sample) :
    lookup q b =
      if q = .idle ∧ frameStrobe b = true then some rule1
      else if q = .frameStart ∧ frameStrobe b = false then some rule2
      else if q = .frameActive ∧ bitClock b = true then some rule3
      else if q = .dataBitActive ∧ bitClock b = false then some rule4
      else if q = .frameActive ∧ frameStrobe b = true then some rule5 else none := by
  simp only [lookup_eq, rule1_matches, rule2_matches, rule3_matches, rule4_matches, rule5_matches]

/-- Settles O4: both are the same chain of five tests, in the same order. -/
theorem keyDecodingAgreesWithLookup : Obligations.KeyDecodingAgreesWithLookup := by
  intro q b
  rw [decodeKey_lookupKey, lookup_eq_by_lines]
  split_ifs <;> rfl

/-- A state that is no rule's From holds on every sample (R47). -/
theorem lookup_eq_none_of_src {q : DecoderState} (h : ∀ r ∈ ruleTable, r.src ≠ q) (b : Sample) :
    lookup q b = none := by
  refine List.find?_eq_none.2 fun r hr hm => h r hr ?_
  have hsrc : q = r.src ∧ b &&& r.mask.setWidth 8 = r.pattern.setWidth 8 := by simpa [ruleMatches] using hm
  exact hsrc.1.symm

/-- Lookup as the first index at which a rule matches (R44). -/
theorem lookup_eq_some_iff_first (q : DecoderState) (b : Sample) (r : Rule) :
    lookup q b = some r ↔
      ∃ n : Nat, ruleTable[n]? = some r ∧ ruleMatches q b r = true ∧
        ∀ (m : Nat) (r' : Rule), m < n → ruleTable[m]? = some r' → ruleMatches q b r' = false := by
  rw [lookup, List.find?_eq_some_iff_getElem]
  constructor
  · rintro ⟨hm, n, hn, hr, hbefore⟩
    refine ⟨n, List.getElem?_eq_some_iff.2 ⟨hn, hr⟩, hm, fun m r' hmn hr' => ?_⟩
    obtain ⟨-, rfl⟩ := List.getElem?_eq_some_iff.1 hr'
    simpa using hbefore m hmn
  · rintro ⟨n, hr, hm, hbefore⟩
    obtain ⟨hn, hrn⟩ := List.getElem?_eq_some_iff.1 hr
    refine ⟨hm, n, hn, hrn, fun m hmn => ?_⟩
    rw [hbefore m _ hmn (List.getElem?_eq_getElem (hmn.trans hn))]
    rfl

theorem low2_eq_iff (b : Sample) : b.extractLsb' 0 2 = 0b11 ↔ bitClock b = true ∧ frameStrobe b = true := by
  revert b; decide

/-- Rules 3 and 5 both match in FrameActive with clock and strobe set, and nowhere else (R44). -/
theorem rules3_5_match_iff (q : DecoderState) (b : Sample) :
    (ruleMatches q b rule3 = true ∧ ruleMatches q b rule5 = true) ↔
      q = .frameActive ∧ b.extractLsb' 0 2 = 0b11 := by
  rw [rule3_matches, rule5_matches, low2_eq_iff, and_and_and_comm, and_self]

/-- In FrameActive a set clock selects CLK_HIGH, whatever the strobe (R44, R57). -/
theorem exec_instrFor_clockHigh {s : State} {b : Sample} (hq : s.ctx.state = .frameActive)
    (hc : bitClock b = true) :
    exec (instrFor s b) s = .next { s with ctx := { s.ctx with state := .dataBitActive } } := by
  have hi : instrFor s b = .clkHigh (ignoredBits b) (dataLine b) (frameStrobe b) := by
    simp [instrFor, decodeKey_lookupKey, hq, hc]
  rw [hi]
  rfl

/-- Settles O5: lookup is `List.find?` on the table; that rules 3 and 5 alone share a From state is read off the five
rules. -/
theorem firstMatchingRuleWins : Obligations.FirstMatchingRuleWins := by
  refine ⟨lookup_eq_some_iff_first, fun q b => ?_, by decide, rules3_5_match_iff, fun s b hq hb => ?_⟩
  · simp only [lookup, List.find?_eq_none, Bool.not_eq_true]
  · exact exec_instrFor_clockHigh hq ((low2_eq_iff b).1 hb).1

/-- Settles O6: the chain of the lookup, state by state; the last four states are no rule's From. -/
theorem completeDecodeByState : Obligations.CompleteDecodeByState := by
  intro b
  refine ⟨?_, ?_, ?_, ?_, lookup_eq_none_of_src (by decide) b, lookup_eq_none_of_src (by decide) b,
    lookup_eq_none_of_src (by decide) b, lookup_eq_none_of_src (by decide) b⟩
  · simp [lookup_eq_by_lines, rule1]
  · cases hs : frameStrobe b <;> simp [lookup_eq_by_lines, rule2, hs]
  · simp [lookup_eq_by_lines, rule3, rule5]
  · cases hc : bitClock b <;> simp [lookup_eq_by_lines, rule4, hc]

/-- A field that lies above `lo` is a field of what stands before it. -/
theorem extractLsb'_append_above {v w : Nat} (hi : BitVec v) (lo : BitVec w) (k n : Nat) :
    (hi ++ lo).extractLsb' (w + k) n = hi.extractLsb' k n := by
  rw [BitVec.extractLsb'_append_eq_of_le (Nat.le_add_right w k), Nat.add_sub_cancel_left]

/-- Settles O7: the word is the five fields one after the other, so each is read back at the width of those behind
it. -/
theorem romHoldsTheFiveRules : Obligations.RomHoldsTheFiveRules := by
  refine ⟨fun r => ⟨?_, ?_, ?_, ?_, ?_⟩, by decide⟩
  · exact (extractLsb'_append_above _ _ 9 3).trans <| (extractLsb'_append_above _ _ 6 3).trans <|
      (extractLsb'_append_above _ _ 3 3).trans BitVec.extractLsb'_append_eq_left
  · exact (extractLsb'_append_above _ _ 6 3).trans <| (extractLsb'_append_above _ _ 3 3).trans <|
      (extractLsb'_append_above _ _ 0 3).trans BitVec.extractLsb'_append_eq_right
  · exact (extractLsb'_append_above _ _ 3 3).trans <| (extractLsb'_append_above _ _ 0 3).trans
      BitVec.extractLsb'_append_eq_right
  · exact (extractLsb'_append_above _ _ 0 3).trans BitVec.extractLsb'_append_eq_right
  · exact BitVec.extractLsb'_append_eq_right

/-! ### The step over the rule table -/

/-- Settles O28: the instruction's row and the rule that lookup returns come from the same chain, and each row runs its
rule's action and then its To state. -/
theorem instructionsRefineFeed : Obligations.InstructionsRefineFeed := by
  intro s b
  rw [feed, decodeKey_lookupKey, lookup_eq_by_lines]
  split_ifs <;> rfl

theorem feed_of_no_rule {s : State} {b : Sample} (h : lookup s.ctx.state b = none) : feed b s = .next s := by
  simp only [feed, h]

theorem feed_of_rule {s : State} {b : Sample} {r : Rule} (h : lookup s.ctx.state b = some r) :
    feed b s = takeRule (applyAction r.action b) r.dst s := by
  simp only [feed, h]
  rfl

/-- A step with a sample is `feed` and then the encoder (R64, R77). -/
theorem step_of_sample {s : State} {c : Cycle} {rest : List Cycle} (hin : s.input = c :: rest) (hr : c.rst = false)
    (hv : c.sampleValid = true) (hw : s.wasReset = true) :
    step s = andThen (feed c.sample { s with input := rest, lost := c.lost })
      (fun u => exec (encoderInstr u) u) := by
  rw [step, fetch_sample hin hr hv hw, ← instructionsRefineFeed]
  rfl

/-! ### States that no rule leaves -/

/-- A sample met in a state that no rule leaves changes nothing (R47). -/
theorem exec_instrFor_stuck {s : State} (h : ∀ r ∈ ruleTable, r.src ≠ s.ctx.state) (b : Sample) :
    exec (instrFor s b) s = .next s :=
  (instructionsRefineFeed s b).trans (feed_of_no_rule (lookup_eq_none_of_src h b))

/-- A step that is no reset edge, in a state that no rule leaves, keeps the context and presents what was held over. -/
theorem step_stuck {s t : State} (h : ∀ r ∈ ruleTable, r.src ≠ s.ctx.state) (ht : step s = .next t)
    (hr : ∀ c rest, s.input = c :: rest → c.rst = false) :
    t.ctx = s.ctx ∧ t.presented = s.presented ++ s.events := by
  obtain ⟨c, rest, hin, hrst, rfl⟩ | ⟨-, _, _, rfl⟩ | ⟨c, rest, -, -, -, _, _, rfl⟩ |
    ⟨c, rest, u, -, -, -, -, hu, _, _, rfl⟩ := step_eq_next ht
  · simp [hr c rest hin] at hrst
  · exact ⟨rfl, rfl⟩
  · exact ⟨rfl, rfl⟩
  · cases (exec_instrFor_stuck (s := { s with input := rest, lost := c.lost }) h c.sample).symm.trans hu
    exact ⟨rfl, rfl⟩

/-- Settles O38: these states stand in no rule's From or To column, and soundness names the other four. -/
theorem unreachableCodesAreStuck : Obligations.UnreachableCodesAreStuck := by
  refine ⟨fun s t hq ht hr => ?_, by decide, fun s hs => ?_⟩
  · have hsrc : ∀ r ∈ ruleTable, r.src ≠ s.ctx.state := by
      rcases hq with hq | hq | hq | hq <;> rw [hq] <;> decide
    obtain ⟨hctx, hpres⟩ := step_stuck hsrc ht hr
    exact ⟨hctx, fun hev => by rw [hpres, hev, List.append_nil]⟩
  · rcases hs.context.reachable with hq | hq | hq | hq <;> rw [hq] <;> decide

/-! ### What of a sample a step depends on -/

theorem getLsbD_of_lowBits {b b' : Sample} {n i : Nat} (h : b.extractLsb' 0 n = b'.extractLsb' 0 n) (hi : i < n) :
    b.getLsbD i = b'.getLsbD i := by
  simpa [hi] using congrArg (fun x => x.getLsbD i) h

/-- Lookup reads the clock and the strobe only (R46). -/
theorem lookup_congr {b b' : Sample} (q : DecoderState) (h : b.extractLsb' 0 2 = b'.extractLsb' 0 2) :
    lookup q b = lookup q b' := by
  have hs : frameStrobe b = frameStrobe b' := getLsbD_of_lowBits h (by decide)
  have hc : bitClock b = bitClock b' := getLsbD_of_lowBits h (by decide)
  rw [lookup_eq_by_lines, lookup_eq_by_lines, hs, hc]

/-- Only the action of rule 4 reads the data line (R46, R65). -/
theorem applyAction_congr {r : Rule} {b b' : Sample} (hr : r ∈ ruleTable)
    (h : r = rule4 → dataLine b = dataLine b') :
    applyAction r.action b = applyAction r.action b' := by
  simp only [ruleTable, List.mem_cons, List.not_mem_nil, or_false] at hr
  rcases hr with rfl | rfl | rfl | rfl | rfl
  · rfl
  · rfl
  · rfl
  · funext s
    exact congrArg (onDataBit · s) (h rfl)
  · rfl

/-- `feed` reads the clock, the strobe and, at rule 4, the data line. -/
theorem feed_congr {b b' : Sample} {s : State} (hlow : b.extractLsb' 0 2 = b'.extractLsb' 0 2)
    (hd : lookup s.ctx.state b = some rule4 → dataLine b = dataLine b') : feed b s = feed b' s := by
  have hl := lookup_congr s.ctx.state hlow
  cases h : lookup s.ctx.state b with
  | none => rw [feed_of_no_rule h, feed_of_no_rule (hl ▸ h)]
  | some r =>
    have hact := applyAction_congr (List.mem_of_find?_eq_some h) fun h4 => hd (h4 ▸ h)
    rw [feed_of_rule h, feed_of_rule (hl ▸ h), hact]

/-- Samples that `feed` does not tell apart give the same step. -/
theorem step_congr_sample {s : State} {b b' : Sample} (lost : List Bool) (rest : List Cycle)
    (hlow : b.extractLsb' 0 2 = b'.extractLsb' 0 2)
    (hd : lookup s.ctx.state b = some rule4 → dataLine b = dataLine b') :
    step { s with input := ⟨false, true, b, lost⟩ :: rest } =
      step { s with input := ⟨false, true, b', lost⟩ :: rest } := by
  by_cases hw : s.wasReset = true
  · have hstep (p : Sample) : step { s with input := ⟨false, true, p, lost⟩ :: rest } =
        andThen (feed p { s with input := rest, lost := lost }) (fun u => exec (encoderInstr u) u) :=
      step_of_sample (s := { s with input := ⟨false, true, p, lost⟩ :: rest }) rfl rfl rfl hw
    rw [hstep, hstep, feed_congr (s := { s with input := rest, lost := lost }) hlow hd]
  · have hstep (p : Sample) : step { s with input := ⟨false, true, p, lost⟩ :: rest } = .refused .beforeReset := by
      rw [step, fetch_beforeReset (s := { s with input := ⟨false, true, p, lost⟩ :: rest }) rfl rfl rfl
        (Bool.eq_false_of_not_eq_true hw)]
    rw [hstep, hstep]

theorem lowBits_mono {b b' : Sample} {m n : Nat} (hmn : m ≤ n) (h : b.extractLsb' 0 n = b'.extractLsb' 0 n) :
    b.extractLsb' 0 m = b'.extractLsb' 0 m := by
  apply BitVec.eq_of_getLsbD_eq
  intro i hi
  simpa [hi] using getLsbD_of_lowBits h (Nat.lt_of_lt_of_le hi hmn)

/-- Settles O8: the step reads the sample through `feed` only. -/
theorem ignoredSampleBitsChangeNothing : Obligations.IgnoredSampleBitsChangeNothing :=
  ⟨fun _ _ _ lost rest h =>
      step_congr_sample lost rest (lowBits_mono (by decide) h) fun _ => getLsbD_of_lowBits h (by decide),
    fun q _ _ h => lookup_congr q h,
    fun _ _ _ lost rest h h4 => step_congr_sample lost rest h fun heq => absurd heq h4⟩

/-! ### What on_data_bit depends on -/

/-- `t` with the cursors, the slots and the flag of `c`: all of the context but the state, which on_data_bit neither
reads nor writes (R68). -/
def State.withAssembler (c : Context) (t : State) : State := { t with ctx := { c with state := t.ctx.state } }

@[simp] theorem withAssembler_events (c : Context) (t : State) : (t.withAssembler c).events = t.events := rfl

theorem withAssembler_of_ctx {c : Context} {t : State} (h : t.ctx = { c with state := t.ctx.state }) :
    t.withAssembler c = t := by
  rw [State.withAssembler, ← h]

theorem advanceCursor_withAssembler {s t : State} (h : t.cfg.channels = s.cfg.channels) :
    advanceCursor (t.withAssembler s.ctx) = t.withAssembler (advanceCursor s).ctx := by
  have hch : (t.withAssembler s.ctx).cfg.channels = s.cfg.channels := h
  unfold advanceCursor
  rw [hch]
  simp only [apply_ite State.ctx, apply_ite (State.withAssembler · t)]
  rfl

/-- on_data_bit is a function of `CHANNELS`, the cursors, the slots and the flag. -/
theorem onDataBit_withAssembler (d : Bool) {s t : State} (h : t.cfg.channels = s.cfg.channels) :
    onDataBit d (t.withAssembler s.ctx) = andThen (onDataBit d s) (fun u => .next (t.withAssembler u.ctx)) := by
  have hch : (t.withAssembler s.ctx).cfg.channels = s.cfg.channels := h
  by_cases hc : s.ctx.currentChannel = s.cfg.channels
  · rw [onDataBit_full d hc, onDataBit_full d (s := t.withAssembler s.ctx) (hc.trans hch.symm)]
    rfl
  · have hc' : (t.withAssembler s.ctx).ctx.currentChannel ≠ (t.withAssembler s.ctx).cfg.channels := hch ▸ hc
    cases ha : s.ctx.acc[s.ctx.currentChannel]? with
    | none =>
      rw [onDataBit_outOfRange d hc ha, onDataBit_outOfRange d hc' ha]
      rfl
    | some a =>
      rw [onDataBit_captures d hc ha, onDataBit_captures d hc' ha]
      exact congrArg Host.Outcome.next
        (advanceCursor_withAssembler (s := writeSlot s.ctx.currentChannel (shiftIn a d) s) h)

theorem onDataBit_state {d : Bool} {s t : State} (h : onDataBit d s = .next t) : t.ctx.state = s.ctx.state := by
  obtain ⟨_, rfl⟩ | ⟨a, _, _, ⟨_, rfl⟩ | ⟨_, _, rfl⟩ | ⟨_, _, rfl⟩⟩ := onDataBit_eq_next h <;> rfl

/-! ### The output side -/

theorem State.SameDecoder.setDecoderState {s t : State} (h : s.SameDecoder t) (q : DecoderState) :
    (setDecoderState q s).SameDecoder (setDecoderState q t) :=
  { h with ctx := congrArg (fun c : Context => { c with state := q }) h.ctx }

theorem onDataBit_sameDecoder (d : Bool) {s t : State} (h : s.SameDecoder t) :
    sameOutcome State.SameDecoder (onDataBit d s) (onDataBit d t) := by
  have ht : t.withAssembler s.ctx = t := withAssembler_of_ctx (by rw [h.ctx])
  rw [← ht, onDataBit_withAssembler d h.channels.symm]
  cases hu : onDataBit d s with
  | next u =>
    have hq : u.ctx.state = t.ctx.state := (onDataBit_state hu).trans (by rw [h.ctx])
    rw [onDataBit_outside hu]
    exact { h with ctx := by rw [State.withAssembler, ← hq] }
  | fault e => rfl
  | refused e => rfl

theorem onFrameEnd_sameDecoder {s t : State} (h : s.SameDecoder t) :
    sameOutcome State.SameDecoder (onFrameEnd s) (onFrameEnd t) := by
  have hes : emitOperands s = emitOperands t := by rw [emitOperands, emitOperands, h.ctx, h.nEmit]
  unfold onFrameEnd
  rw [h.nEmit, h.ctx, hes]
  split_ifs
  · exact { h with
      ctx := congrArg (fun c : Context => { c with currentChannel := 0, currentBit := 0, acc := c.acc.set 0 0 }) h.ctx
      events := congrArg (· ++ _) h.events }
  · rfl

/-- No action looks at the output side. -/
theorem applyAction_sameDecoder (a : ActionKind) (b : Sample) {s t : State} (h : s.SameDecoder t) :
    sameOutcome State.SameDecoder (applyAction a b s) (applyAction a b t) := by
  cases a with
  | none => exact h
  | frameStart => exact { h with events := congrArg (· ++ _) h.events }
  | dataBit => exact onDataBit_sameDecoder (dataLine b) h
  | frameEnd => exact onFrameEnd_sameDecoder h

theorem feed_sameDecoder (b : Sample) {s t : State} (h : s.SameDecoder t) :
    sameOutcome State.SameDecoder (feed b s) (feed b t) := by
  have hq : lookup s.ctx.state b = lookup t.ctx.state b := by rw [h.ctx]
  cases hl : lookup s.ctx.state b with
  | none =>
    rw [feed_of_no_rule hl, feed_of_no_rule (hq ▸ hl)]
    exact h
  | some r =>
    rw [feed_of_rule hl, feed_of_rule (hq ▸ hl)]
    exact sameOutcome_andThen (applyAction_sameDecoder r.action b h) fun _ _ huv => huv.setDecoderState r.dst

/-- The encoder operations of two modes present the same events and leave the same block (R77). -/
theorem encoder_sameDecoder {s t : State} (h : s.SameDecoder t) :
    sameOutcome State.SameDecoder (exec (encoderInstr s) s) (exec (encoderInstr t) t) := by
  obtain ⟨_, _, hs⟩ := exec_encoder s
  obtain ⟨_, _, ht⟩ := exec_encoder t
  rw [hs, ht]
  exact { h with events := rfl, presented := congrArg₂ (· ++ ·) h.presented h.events }

theorem pins_eq_iff {c c' : Cycle} :
    pins c = pins c' ↔ c.rst = c'.rst ∧ c.sampleValid = c'.sampleValid ∧
      c.sample.extractLsb' 0 3 = c'.sample.extractLsb' 0 3 := by
  simp only [pins, Prod.mk.injEq]

/-- A cycle with the same pins is the same reset edge, the same lack of a sample or a sample that `feed` does not tell
apart. -/
theorem step_sameDecoder_cons {s t : State} {c c' : Cycle} {cs cs' : List Cycle} (h : s.SameDecoder t)
    (hs : s.input = c :: cs) (ht : t.input = c' :: cs') (hc : pins c = pins c') (hcs : cs.map pins = cs'.map pins) :
    sameOutcome State.SameDecoder (step s) (step t) := by
  obtain ⟨hrst, hvalid, hlow⟩ := pins_eq_iff.1 hc
  have htail : State.SameDecoder { s with input := cs, lost := c.lost } { t with input := cs', lost := c'.lost } :=
    { h with input := hcs }
  cases hr : c.rst with
  | true =>
    rw [step, step, fetch_reset hs hr, fetch_reset ht (hrst ▸ hr)]
    exact { htail with ctx := congrArg Context.reset h.channels, wasReset := rfl, events := rfl }
  | false =>
    cases hv : c.sampleValid with
    | false =>
      rw [step, step, fetch_idle hs hr hv, fetch_idle ht (hrst ▸ hr) (hvalid ▸ hv)]
      exact encoder_sameDecoder htail
    | true =>
      cases hw : s.wasReset with
      | false =>
        rw [step, step, fetch_beforeReset hs hr hv hw,
          fetch_beforeReset ht (hrst ▸ hr) (hvalid ▸ hv) (h.wasReset ▸ hw)]
        rfl
      | true =>
        rw [step_of_sample hs hr hv hw, step_of_sample ht (hrst ▸ hr) (hvalid ▸ hv) (h.wasReset ▸ hw),
          feed_congr (lowBits_mono (by decide) hlow) fun _ => getLsbD_of_lowBits hlow (by decide)]
        exact sameOutcome_andThen (feed_sameDecoder c'.sample htail) fun _ _ huv => encoder_sameDecoder huv

/-- Settles O41: every part of the step keeps the agreement, the encoder included, and the cycles bring the same
pins. -/
theorem outputSideCannotInfluenceTheDecoder : Obligations.OutputSideCannotInfluenceTheDecoder := by
  intro s t h
  have hin := h.input
  cases hs : s.input with
  | nil =>
    have ht : t.input = [] := by simpa [hs, eq_comm] using hin
    rw [step, step, fetch_nil hs, fetch_nil ht]
    exact encoder_sameDecoder h
  | cons c cs =>
    rw [hs, List.map_cons, eq_comm, List.map_eq_cons_iff] at hin
    obtain ⟨c', cs', ht, hc, hcs⟩ := hin
    exact step_sameDecoder_cons h hs ht hc.symm hcs.symm

/-! ### The pseudo-operations -/

theorem Context.with_state_self {c : Context} {q : DecoderState} (h : c.state = q) : { c with state := q } = c := by
  subst h; rfl

/-- A run goes on from where its first `m` steps end. -/
theorem run_add_of_next {M : Host.Core} {m : Nat} {s t : M.State} (h : M.run m s = .next t) (n : Nat) :
    M.run (m + n) s = M.run n t := by
  induction m generalizing s with
  | zero =>
    cases h
    rw [Nat.zero_add]
  | succ m ih =>
    rw [Nat.succ_add]
    cases hs : M.step s with
    | next u =>
      simp only [Host.Core.run, hs] at h ⊢
      exact ih h
    | fault e => simp [Host.Core.run, hs] at h
    | refused e => simp [Host.Core.run, hs] at h

theorem run_two {s t u : State} (hs : step s = .next t) (ht : step t = .next u) :
    Sys2Proof.core.run 2 s = .next u := by
  have hs' : Sys2Proof.core.step s = .next t := hs
  have ht' : Sys2Proof.core.step t = .next u := ht
  simp only [Host.Core.run, hs', ht']

/-- `s` with a cycle taken that loses no event; `rest` follows it. -/
def State.awaiting (rest : List Cycle) (s : State) : State := { s with input := rest, lost := [] }

@[simp] theorem awaiting_cfg (rest : List Cycle) (s : State) : (s.awaiting rest).cfg = s.cfg := rfl
@[simp] theorem awaiting_ctx (rest : List Cycle) (s : State) : (s.awaiting rest).ctx = s.ctx := rfl
@[simp] theorem awaiting_events (rest : List Cycle) (s : State) : (s.awaiting rest).events = s.events := rfl

/-- The step of a sound machine on a sample that fires rule `r`, whose action ends in `u`. -/
theorem step_of_rule {s u : State} {b : Sample} {rest : List Cycle} {r : Rule} (h : s.Inv)
    (hin : s.input = sampleCycle b :: rest) (hr : lookup s.ctx.state b = some r)
    (hu : applyAction r.action b (s.awaiting rest) = .next u) :
    ∃ t, step s = .next t ∧ t.Inv ∧ t.cfg = s.cfg ∧ t.ctx = (setDecoderState r.dst u).ctx ∧ t.input = rest ∧
      t.presented = s.presented ++ u.events := by
  have hfeed : feed b (s.awaiting rest) = .next (setDecoderState r.dst u) :=
    (feed_of_rule (s := s.awaiting rest) hr).trans (takeRule_eq_next.2 ⟨u, hu, rfl⟩)
  have hexec : exec (instrFor (s.awaiting rest) b) (s.awaiting rest) = .next (setDecoderState r.dst u) :=
    (instructionsRefineFeed _ b).trans hfeed
  have hout := exec_instrFor_outside hexec
  have hpres : (setDecoderState r.dst u).presented = (s.awaiting rest).presented := by rw [hout]
  obtain ⟨bs, ts, henc⟩ := exec_encoder (setDecoderState r.dst u)
  have hstep : step s = .next (present { setDecoderState r.dst u with byteSink := bs, textSink := ts }) :=
    (step_of_sample hin rfl rfl h.started).trans (andThen_eq_next.2 ⟨_, hfeed, henc⟩)
  obtain ⟨hinput, -, -, -⟩ := outputsAndInputsKeepTheirOrder _ _ hstep
  exact ⟨_, hstep, everyStepKeepsTheInvariants _ _ h hstep, step_cfg hstep, rfl, by rw [hinput, hin, List.tail_cons],
    congrArg (· ++ u.events) hpres⟩

/-- A sound machine inside a frame, and one with the same context that is given its bits directly. -/
structure SameFrame (s v : State) : Prop where
  sound  : s.Inv
  active : s.ctx.state = .frameActive
  ctx    : v.ctx = s.ctx
  cfg    : v.cfg = s.cfg

/-- The two samples of `BIT(d)` fire rules 3 and 4, the second with data line `d` (R51). -/
theorem bitSamples_eq (d : Bool) : ∃ x y, bitSamples d = [x, y] ∧ lookup .frameActive x = some rule3 ∧
    lookup .dataBitActive y = some rule4 ∧ dataLine y = d := by
  cases d with
  | false => exact ⟨0x02, 0x00, by decide⟩
  | true => exact ⟨0x06, 0x04, by decide⟩

/-- `BIT(d)` captures what on_data_bit captures (R51). -/
theorem run_bit {s v : State} (d : Bool) {rest : List Cycle} (h : SameFrame s v)
    (hin : s.input = replay (bitSamples d) ++ rest) :
    ∃ t u, Sys2Proof.core.run 2 s = .next t ∧ onDataBit d v = .next u ∧ SameFrame t u ∧ t.input = rest ∧
      t.presented = s.presented := by
  obtain ⟨x, y, hxy, hx, hy, rfl⟩ := bitSamples_eq d
  have hin₀ : s.input = sampleCycle x :: sampleCycle y :: rest := by rw [hin, hxy]; rfl
  obtain ⟨t₁, hstep₁, hinv₁, hcfg₁, hctx₁, hin₁, hpres₁⟩ := step_of_rule h.sound hin₀ (h.active ▸ hx) rfl
  obtain ⟨u, hu⟩ : ∃ u, onDataBit (dataLine y) v = .next u :=
    onDataBit_completes (dataLine y) (h.ctx ▸ h.cfg ▸ h.sound.context)
  have hu₁ : onDataBit (dataLine y) (t₁.awaiting rest) = .next ((t₁.awaiting rest).withAssembler u.ctx) := by
    have hv : (t₁.awaiting rest).withAssembler v.ctx = t₁.awaiting rest :=
      withAssembler_of_ctx (by rw [h.ctx, awaiting_ctx, hctx₁]; rfl)
    have hch : (t₁.awaiting rest).cfg.channels = v.cfg.channels := by rw [h.cfg, awaiting_cfg, hcfg₁]
    have hbit := onDataBit_withAssembler (dataLine y) hch
    rwa [hv, hu] at hbit
  have hy₁ : lookup t₁.ctx.state y = some rule4 := by rw [hctx₁]; exact hy
  obtain ⟨t, hstep, hinv, hcfg, hctx, hrest, hpres⟩ := step_of_rule hinv₁ hin₁ hy₁ hu₁
  have hq : u.ctx.state = .frameActive := by rw [onDataBit_state hu, h.ctx, h.active]
  refine ⟨t, u, run_two hstep₁ hstep, hu, ⟨hinv, ?_, ?_, ?_⟩, hrest, ?_⟩
  · rw [hctx]; rfl
  · rw [hctx]; exact (Context.with_state_self hq).symm
  · rw [onDataBit_outside hu, hcfg, hcfg₁]; exact h.cfg
  · rw [hpres, hpres₁, withAssembler_events]
    simp [h.sound.noEvents, hinv₁.noEvents]

/-- The samples of a list of bits capture what on_data_bit captures from the bits, one `BIT` after the other. -/
theorem run_bits (ds : List Bool) {s v : State} {rest : List Cycle} (h : SameFrame s v)
    (hin : s.input = replay (ds.flatMap bitSamples) ++ rest) :
    ∃ t u, Sys2Proof.core.run (2 * ds.length) s = .next t ∧ captureBits ds v = .next u ∧ SameFrame t u ∧
      t.input = rest ∧ t.presented = s.presented := by
  induction ds generalizing s v with
  | nil => exact ⟨s, v, rfl, rfl, h, hin, rfl⟩
  | cons d ds ih =>
    have hin₁ : s.input = replay (bitSamples d) ++ (replay (ds.flatMap bitSamples) ++ rest) := by
      simpa [replay] using hin
    obtain ⟨t₁, u₁, hrun₁, hu₁, h₁, hrest₁, hpres₁⟩ := run_bit d h hin₁
    obtain ⟨t, u, hrun, hu, ht, hrest, hpres⟩ := ih h₁ hrest₁
    have hlen : 2 * (d :: ds).length = 2 + 2 * ds.length := by rw [List.length_cons]; omega
    refine ⟨t, u, ?_, andThen_eq_next.2 ⟨u₁, hu₁, hu⟩, ht, hrest, hpres.trans hpres₁⟩
    rw [hlen, run_add_of_next hrun₁, hrun]

theorem bitsDown_length (w : Word) (n : Nat) : (bitsDown w n).length = n := by
  induction n with
  | zero => rfl
  | succ n ih => rw [bitsDown, List.length_cons, ih]

/-- A strobe that opens or turns a frame, then its fall: the machine ends in FrameActive with what the action left
(R51). -/
theorem run_strobe {s u : State} {rest : List Cycle} {r : Rule} (h : s.Inv)
    (hin : s.input = sampleCycle 0x01 :: sampleCycle 0x00 :: rest) (hr : lookup s.ctx.state 0x01 = some r)
    (hdst : r.dst = .frameStart)
    (hu : applyAction r.action 0x01 (s.awaiting (sampleCycle 0x00 :: rest)) = .next u) :
    ∃ t, Sys2Proof.core.run 2 s = .next t ∧ t.ctx = (setDecoderState .frameActive u).ctx ∧ t.input = rest ∧
      t.presented = s.presented ++ u.events := by
  obtain ⟨t₁, hstep₁, hinv₁, -, hctx₁, hin₁, hpres₁⟩ := step_of_rule h hin hr hu
  have hq₁ : lookup t₁.ctx.state 0x00 = some rule2 := by
    rw [hctx₁, setDecoderState_state, hdst]
    decide
  obtain ⟨t, hstep, -, -, hctx, hrest, hpres⟩ := step_of_rule hinv₁ hin₁ hq₁ rfl
  refine ⟨t, run_two hstep₁ hstep, ?_, hrest, ?_⟩
  · rw [hctx, setDecoderState, awaiting_ctx, hctx₁]
    rfl
  · rw [hpres, hpres₁, awaiting_events, hinv₁.noEvents, List.append_nil]

/-- Settles O46: BIT and WORD are lists of one and of 24 bits; START and TURN are the two strobes. -/
theorem pseudoOperationsDoWhatTheyName : Obligations.PseudoOperationsDoWhatTheyName := by
  refine ⟨fun s b rest h hq hin => ?_, fun s w rest h hq hin => ?_, fun s rest h hq hin => ?_,
    fun s rest h hq hin => ?_⟩
  · obtain ⟨t, u, hrun, hu, ht, hrest, hpres⟩ := run_bit b ⟨h, hq, rfl, rfl⟩ hin
    exact ⟨t, u, hrun, hu, ht.ctx.symm, hrest, hpres⟩
  · obtain ⟨t, u, hrun, hu, ht, hrest, hpres⟩ := run_bits (bitsDown w 24) ⟨h, hq, rfl, rfl⟩ hin
    rw [bitsDown_length] at hrun
    exact ⟨t, u, hrun, hu, ht.ctx.symm, hrest, hpres⟩
  · have hr : lookup s.ctx.state 0x01 = some rule1 := by rw [hq]; decide
    obtain ⟨t, hrun, hctx, hrest, hpres⟩ := run_strobe (rest := rest) h hin hr rfl rfl
    refine ⟨t, hrun, hctx, hrest, ?_⟩
    rw [hpres, emit_events, awaiting_events, h.noEvents, List.nil_append]
  · have hr : lookup s.ctx.state 0x01 = some rule5 := by rw [hq]; decide
    obtain ⟨t, hrun, hctx, hrest, hpres⟩ :=
      run_strobe (rest := rest) h hin hr rfl (onFrameEnd_eq_next.2 ⟨h.emitInRange, rfl⟩)
    refine ⟨t, hrun, hrest, ?_, ?_⟩
    · rw [hctx, ← hq]
      rfl
    · rw [hpres, ← emitOperands_eq_map h.emitInRange, writeSlot_events, setCursors_events, emit_events,
        awaiting_events, h.noEvents]
      rfl

end Sys2Proof.Machine

end

section
/-! PROOFS. The transition table (spec/40_transition_table.md): the six rows over the key, the state graph, and what a
step reads of its sample in DataBitActive. -/

namespace Sys2Proof.Machine

/-! ### FRAME_OPEN, FRAME_ARM, CLK_HIGH and HOLD -/

/-- Settles O9: the row's action is one emission, no slot or cursor is touched, and no rule's To state is Idle. -/
theorem frameOpenOpensAFrame : Obligations.FrameOpenOpensAFrame :=
  ⟨fun _ _ _ _ => rfl, fun b hs => by simp [decodeKey_lookupKey, hs], by decide⟩

/-- A sample that no rule matches changes nothing (R60). -/
theorem exec_instrFor_of_no_rule {s : State} {b : Sample} (h : lookup s.ctx.state b = none) :
    exec (instrFor s b) s = .next s :=
  (instructionsRefineFeed s b).trans (feed_of_no_rule h)

/-- Settles O10: in FrameStart the strobe alone decides between rule 2 and no rule. -/
theorem frameArmConfirmsTheFrame : Obligations.FrameArmConfirmsTheFrame := by
  refine ⟨fun _ _ _ _ => rfl, fun b hs => by simp [decodeKey_lookupKey, hs], fun s b hq hs => ?_⟩
  exact exec_instrFor_of_no_rule (by simp [lookup_eq_by_lines, hq, hs])

/-- Settles O11: in FrameActive a set clock matches rule 3, which stands before rule 5. -/
theorem clkHighRecordsTheClock : Obligations.ClkHighRecordsTheClock :=
  ⟨fun _ _ _ _ => rfl, fun b hc => by simp [decodeKey_lookupKey, hc]⟩

/-- The lookup fails exactly where none of the five rules' conditions holds (R60). -/
theorem lookup_eq_none_iff (q : DecoderState) (b : Sample) :
    lookup q b = none ↔ noRuleMatches q (bitClock b) (frameStrobe b) = true := by
  simp only [noRuleMatches_iff, lookup, List.find?_eq_none, ruleTable, List.forall_mem_cons, rule1_matches,
    rule2_matches, rule3_matches, rule4_matches, rule5_matches, List.not_mem_nil, false_imp_iff, implies_true,
    and_true]

theorem low2_eq_zero_iff (b : Sample) : b.extractLsb' 0 2 = 0b00 ↔ bitClock b = false ∧ frameStrobe b = false := by
  revert b; decide

/-- The pairs of state and lines in which no rule matches, listed by state (R60). -/
theorem noRuleMatches_iff_by_state (q : DecoderState) (c s : Bool) :
    noRuleMatches q c s = true ↔
      (q = .idle ∧ s = false) ∨ (q = .frameStart ∧ s = true) ∨ (q = .frameActive ∧ c = false ∧ s = false) ∨
        (q = .dataBitActive ∧ c = true) ∨ q = .frameFirstBit ∨ q = .frameEnd ∨ q = .dataBitStart ∨
        q = .reserved7 := by
  cases q <;> simp [noRuleMatches]

/-- Settles O14: by state, the lookup fails where `noRuleMatches` says, and there the key falls through to HOLD. -/
theorem holdChangesNothing : Obligations.HoldChangesNothing := by
  refine ⟨fun q b => ?_, fun q b h => ?_, fun _ _ _ _ _ _ => rfl⟩
  · rw [lookup_eq_none_iff, noRuleMatches_iff_by_state, ← low2_eq_zero_iff]
    rfl
  · obtain ⟨h1, h2, h3, h4, h5⟩ := (noRuleMatches_iff _ _ _).1 ((lookup_eq_none_iff q b).1 h)
    rw [decodeKey_lookupKey, if_neg h1, if_neg h2, if_neg h3, if_neg h4, if_neg h5]

/-! ### BIT_SHIFT and FRAME_TURN -/

/-- BIT_SHIFT completes with what on_data_bit leaves, in FrameActive (R58). -/
theorem exec_bitShift {d : Bool} {s u : State} (x : BitVec 5) (strobe : Bool) (h : onDataBit d s = .next u) :
    exec (.bitShift x d strobe) s = .next (setDecoderState .frameActive u) :=
  takeRule_eq_next.2 ⟨u, h, rfl⟩

/-- The partial word of the current slot has its top bit clear (R18 items 2 and 3). -/
theorem Context.Inv.partialTopClear {n : Nat} {c : Context} (h : c.Inv n) {a : Word}
    (ha : c.acc[c.currentChannel]? = some a) : a.toNat < 2 ^ 23 :=
  Nat.lt_of_lt_of_le (h.partialLt a ha) (Nat.pow_le_pow_right (by decide) (Nat.le_of_lt_succ h.bitLt))

/-- Settles O12: the four paths are those of on_data_bit. -/
theorem bitShiftCapturesADataBit : Obligations.BitShiftCapturesADataBit := by
  refine ⟨fun x d strobe s => ⟨fun hfull => ?_, fun a hc ha => ⟨fun hb => ?_, fun hb hn => ?_, fun hb hn => ?_,
    fun hinv => ?_⟩⟩, fun b hclk => ?_⟩
  · exact exec_bitShift x strobe (onDataBit_full d hfull)
  · exact exec_bitShift x strobe (onDataBit_inside d hc ha hb)
  · exact exec_bitShift x strobe (onDataBit_fills d hc ha hb hn)
  · exact exec_bitShift x strobe (onDataBit_parks d hc ha hb hn)
  · exact shiftIn_toNat d (hinv.partialTopClear ha)
  · simp [decodeKey_lookupKey, hclk]

/-- Settles O13: on_frame_end emits the slots one by one; bit 1 clear keeps CLK_HIGH from taking the sample. -/
theorem frameTurnEmitsAndReopens : Obligations.FrameTurnEmitsAndReopens := by
  refine ⟨fun x d c s hn => ?_, fun b hc hs => by simp [decodeKey_lookupKey, hc, hs]⟩
  rw [← emitOperands_eq_map hn]
  exact takeRule_eq_next.2 ⟨_, onFrameEnd_eq_next.2 ⟨hn, rfl⟩, rfl⟩

/-! ### What the six rows leave unchanged -/

/-- on_data_bit writes no slot but the current one and the next (R68). -/
theorem onDataBit_acc_frame {d : Bool} {s t : State} {k : Nat} (h : onDataBit d s = .next t)
    (hk : k ≠ s.ctx.currentChannel) (hk' : k ≠ s.ctx.currentChannel + 1) : t.ctx.acc[k]? = s.ctx.acc[k]? := by
  obtain ⟨-, rfl⟩ | ⟨a, -, -, ⟨-, rfl⟩ | ⟨-, -, rfl⟩ | ⟨-, -, rfl⟩⟩ := onDataBit_eq_next h
  · rfl
  · simp [List.getElem?_set_ne hk.symm]
  · simp [List.getElem?_set_ne hk.symm, List.getElem?_set_ne hk'.symm]
  · simp [List.getElem?_set_ne hk.symm]

/-- Settles O17: row by row; BIT_SHIFT and FRAME_TURN by what their actions can answer. -/
theorem decoderRowsWriteOnlyWhatTheyName : Obligations.DecoderRowsWriteOnlyWhatTheyName := by
  refine ⟨fun i s t hb hh h => ?_, fun i s t h hi => ?_, fun i s t h hi => ?_, fun x d c s t h => ?_,
    fun x d strobe s t h => ?_⟩
  · rw [exec_keyRow_outside hb hh h]
    exact ⟨rfl, rfl, rfl, rfl, rfl, rfl, rfl⟩
  · obtain ⟨x, d, c, rfl⟩ | ⟨x, d, c, rfl⟩ | ⟨x, d, e, rfl⟩ | ⟨q, x, d, c, e, rfl⟩ := hi <;> cases h <;> rfl
  · obtain ⟨x, d, c, rfl⟩ | ⟨x, d, e, rfl⟩ | ⟨x, d, e, rfl⟩ | ⟨q, x, d, c, e, rfl⟩ := hi
    · cases h; rfl
    · cases h; rfl
    · obtain ⟨u, hu, rfl⟩ := takeRule_eq_next.1 h
      rw [onDataBit_outside hu]
      rfl
    · cases h; rfl
  · obtain ⟨u, hu, rfl⟩ := takeRule_eq_next.1 h
    obtain ⟨-, rfl⟩ := onFrameEnd_eq_next.1 hu
    exact ⟨rfl, fun k hk => List.getElem?_set_ne hk.symm⟩
  · obtain ⟨u, hu, rfl⟩ := takeRule_eq_next.1 h
    refine ⟨fun hf => (onDataBit_faultOverflow hu).2 (.inl hf), fun k hk hk' => ?_⟩
    rw [setDecoderState_acc]
    exact onDataBit_acc_frame hu hk hk'

/-! ### The state graph -/

/-- The state after a sample: the To state of the rule that fires, or the same state (R61, R64). -/
def nextDecoderState (q : DecoderState) (b : Sample) : DecoderState := ((lookup q b).map Rule.dst).getD q

theorem feed_state {s u : State} {b : Sample} (h : feed b s = .next u) :
    u.ctx.state = nextDecoderState s.ctx.state b := by
  unfold nextDecoderState
  cases hl : lookup s.ctx.state b with
  | none =>
    rw [feed_of_no_rule hl] at h
    cases h
    rfl
  | some r =>
    rw [feed_of_rule hl] at h
    obtain ⟨v, -, rfl⟩ := takeRule_eq_next.1 h
    rfl

/-- A cycle with a sample: `feed` and then the encoder, or no meaning before the first reset (R64, R77, R101). -/
theorem step_of_sampleCycle {s : State} {b : Sample} {lost : List Bool} {rest : List Cycle}
    (hin : s.input = ⟨false, true, b, lost⟩ :: rest) :
    step s = if s.wasReset then
        andThen (feed b { s with input := rest, lost := lost }) (fun u => exec (encoderInstr u) u)
      else .refused .beforeReset := by
  split_ifs with hw
  · exact step_of_sample hin rfl rfl hw
  · rw [step, fetch_beforeReset hin rfl rfl (Bool.eq_false_of_not_eq_true hw)]

/-- A step with a sample ends in the state `feed` ends in: the encoder keeps the context. -/
theorem step_state {s t : State} {b : Sample} {rest : List Cycle} (hp : s.Presents b rest) (h : step s = .next t) :
    t.ctx.state = nextDecoderState s.ctx.state b := by
  obtain ⟨lost, hin⟩ := hp
  rw [step_of_sampleCycle hin] at h
  split_ifs at h
  obtain ⟨u, hu, he⟩ := andThen_eq_next.1 h
  obtain ⟨bs, ts, henc⟩ := exec_encoder u
  cases henc.symm.trans he
  have hstate := feed_state hu
  exact hstate

/-- No rule goes to Idle, so a sample leads there from Idle only. -/
theorem nextDecoderState_eq_idle {q : DecoderState} {b : Sample} (h : nextDecoderState q b = .idle) : q = .idle := by
  unfold nextDecoderState at h
  cases hl : lookup q b with
  | none => simpa [hl] using h
  | some r =>
    have hdst : ∀ r ∈ ruleTable, r.dst ≠ .idle := by decide
    exact absurd (by simpa [hl] using h) (hdst r (List.mem_of_find?_eq_some hl))

/-- Settles O37: the To states of the complete decode table, state by state. -/
theorem stateGraphIsComplete : Obligations.StateGraphIsComplete := by
  intro s t b rest hp h
  rw [step_state hp h]
  refine ⟨?_, nextDecoderState_eq_idle⟩
  obtain ⟨h0, h1, h2, h3, h4, h5, h6, h7⟩ := completeDecodeByState b
  cases s.ctx.state
  case idle => cases hs : frameStrobe b <;> simp [nextDecoderState, h0, hs]
  case frameStart => cases hs : frameStrobe b <;> simp [nextDecoderState, h1, hs]
  case frameActive =>
    cases hc : bitClock b <;> cases hs : frameStrobe b <;> simp [nextDecoderState, h2, hc, hs]
  case dataBitActive => cases hc : bitClock b <;> simp [nextDecoderState, h3, hc]
  case frameFirstBit => simp [nextDecoderState, h4]
  case frameEnd => simp [nextDecoderState, h5]
  case dataBitStart => simp [nextDecoderState, h6]
  case reserved7 => simp [nextDecoderState, h7]

/-! ### The strobe in DataBitActive -/

/-- `feed` in DataBitActive: nothing while the clock is high, then the data bit (R58, R60). -/
theorem feed_dataBitActive {s : State} (b : Sample) (hq : s.ctx.state = .dataBitActive) :
    feed b s = if bitClock b then .next s else takeRule (onDataBit (dataLine b)) .frameActive s := by
  cases hc : bitClock b with
  | true => exact feed_of_no_rule (by simp [lookup_eq_by_lines, hq, hc])
  | false => exact feed_of_rule (r := rule4) (by simp [lookup_eq_by_lines, hq, hc])

/-- Settles O44: the step reads its sample through `feed`, which in DataBitActive reads the clock and the data line
only, bits 1 and 2. -/
theorem strobeIsIgnoredWhileTheClockIsHigh : Obligations.StrobeIsIgnoredWhileTheClockIsHigh := by
  intro s b b' lost rest hq h
  have hbit (i : Nat) (hi : i < 2) : b.getLsbD (1 + i) = b'.getLsbD (1 + i) := by
    simpa [hi] using congrArg (fun x => x.getLsbD i) h
  have hc : bitClock b = bitClock b' := hbit 0 (by decide)
  have hd : dataLine b = dataLine b' := hbit 1 (by decide)
  have hfeed {u : State} (hu : u.ctx.state = .dataBitActive) : feed b u = feed b' u := by
    rw [feed_dataBitActive b hu, feed_dataBitActive b' hu, hc, hd]
  rw [step_of_sampleCycle rfl, step_of_sampleCycle rfl, hfeed]
  exact hq

end Sys2Proof.Machine

end

section
/-! PROOFS. Word assembly (spec/40_transition_table.md R57 to R59, 41_decoder_actions.md R72): what the bits of one slot
do to it, and what pairs of samples capture, whatever their strobe. -/

namespace Sys2Proof.Machine

/-! ### The bits of one slot -/

theorem captureBits_append (ds es : List Bool) (s : State) :
    captureBits (ds ++ es) s = andThen (captureBits ds s) (captureBits es) := by
  induction ds generalizing s with
  | nil => rfl
  | cons d ds ih =>
    simp only [List.cons_append, captureBits]
    cases onDataBit d s with
    | next u => exact ih u
    | fault e => rfl
    | refused e => rfl

/-- Capturing bits writes the context only. -/
theorem captureBits_outside {ds : List Bool} {s t : State} (h : captureBits ds s = .next t) :
    t = { s with ctx := t.ctx } := by
  induction ds generalizing s with
  | nil => cases h; rfl
  | cons d ds ih =>
    obtain ⟨u, hu, ht⟩ := andThen_eq_next.1 h
    rw [ih ht, onDataBit_outside hu]

/-- Bits that do not fill the current slot are shifted into it one after the other (R68). -/
theorem captureBits_inside {s : State} {a : Word} (ds : List Bool) (hc : s.ctx.currentChannel ≠ s.cfg.channels)
    (ha : s.ctx.acc[s.ctx.currentChannel]? = some a) (hb : s.ctx.currentBit + ds.length < bits) :
    captureBits ds s = .next (setCursors s.ctx.currentChannel (s.ctx.currentBit + ds.length)
      (writeSlot s.ctx.currentChannel (ds.foldl shiftIn a) s)) := by
  induction ds generalizing s a with
  | nil =>
    obtain ⟨hi, rfl⟩ := List.getElem?_eq_some_iff.1 ha
    simp [captureBits, setCursors, writeSlot]
  | cons d ds ih =>
    rw [List.length_cons] at hb ⊢
    have hslot := (List.getElem?_eq_some_iff.1 ha).1
    have hadd : s.ctx.currentBit + 1 + ds.length = s.ctx.currentBit + (ds.length + 1) := by omega
    have hds := ih (s := setCursors s.ctx.currentChannel (s.ctx.currentBit + 1)
      (writeSlot s.ctx.currentChannel (shiftIn a d) s)) hc (List.getElem?_set_self hslot) (hadd.trans_lt hb)
    rw [captureBits, onDataBit_inside d hc ha (by omega), andThen_next, hds]
    simp [setCursors, writeSlot, hadd]

/-- Bits that fill the current slot are shifted into it, and the last one advances both cursors (R68). -/
theorem captureBits_fills {s : State} {a : Word} {ds : List Bool} (hc : s.ctx.currentChannel ≠ s.cfg.channels)
    (ha : s.ctx.acc[s.ctx.currentChannel]? = some a) (hne : ds ≠ []) (hb : s.ctx.currentBit + ds.length = bits) :
    captureBits ds s = .next (advanceCursor (setCursors s.ctx.currentChannel 23
      (writeSlot s.ctx.currentChannel (ds.foldl shiftIn a) s))) := by
  obtain ⟨es, d, rfl⟩ : ∃ es d, ds = es ++ [d] := ⟨_, _, (List.dropLast_append_getLast hne).symm⟩
  rw [List.length_append, List.length_singleton, ← Nat.add_assoc] at hb
  have hes : s.ctx.currentBit + es.length = 23 := Nat.succ.inj hb
  have hslot := (List.getElem?_eq_some_iff.1 ha).1
  have hlast := onDataBit_captures d (s := setCursors s.ctx.currentChannel 23
    (writeSlot s.ctx.currentChannel (es.foldl shiftIn a) s)) hc (List.getElem?_set_self hslot)
  rw [captureBits_append, captureBits_inside es hc ha (by rw [hes]; decide), andThen_next, hes, captureBits, hlast]
  simp [captureBits, setCursors, writeSlot]

/-- What the cursors and the slots are after the last bit of a slot (R68). -/
theorem advanceCursor_of_lastBit {s : State} (h : s.ctx.currentBit + 1 = bits) :
    (advanceCursor s).ctx.currentChannel = s.ctx.currentChannel + 1 ∧ (advanceCursor s).ctx.currentBit = 0 ∧
      (∀ i, i ≠ s.ctx.currentChannel + 1 → (advanceCursor s).ctx.acc[i]? = s.ctx.acc[i]?) ∧
      (s.ctx.currentChannel + 1 < s.cfg.channels → s.cfg.channels ≤ s.ctx.acc.length →
        (advanceCursor s).ctx.acc[s.ctx.currentChannel + 1]? = some 0) := by
  rw [advanceCursor, if_pos h]
  split_ifs with hn
  · exact ⟨rfl, rfl, fun i hi => List.getElem?_set_ne hi.symm,
      fun _ hlen => List.getElem?_set_self (Nat.lt_of_lt_of_le hn hlen)⟩
  · exact ⟨rfl, rfl, fun _ _ => rfl, fun hn' => absurd hn' hn⟩

/-- While bits are missing, shifting in a list of bits is arithmetic on the value read so far (R72). -/
theorem foldl_shiftIn_toNat {a : Word} {n : Nat} (ds : List Bool) (ha : a.toNat < 2 ^ n) (hn : n + ds.length ≤ 24) :
    (ds.foldl shiftIn a).toNat = ds.foldl (fun v d => 2 * v + d.toNat) a.toNat := by
  induction ds generalizing a n with
  | nil => rfl
  | cons d ds ih =>
    rw [List.length_cons] at hn
    have hlt : a.toNat < 2 ^ 23 := Nat.lt_of_lt_of_le ha (Nat.pow_le_pow_right (by decide) (by omega))
    rw [List.foldl_cons, List.foldl_cons, ih (shiftIn_lt d ha (show n < 24 by omega)) (by omega), shiftIn_toNat d hlt]

/-! ### Pairs of samples -/

/-- CLK_HIGH as a step: inside a frame a sample with the clock set moves to DataBitActive only (R57). -/
theorem step_clkHigh {s : State} {x : Sample} {rest : List Cycle} (h : s.Inv) (hq : s.ctx.state = .frameActive)
    (hx : bitClock x = true) (hin : s.input = sampleCycle x :: rest) :
    ∃ t, step s = .next t ∧ t.Inv ∧ t.cfg = s.cfg ∧ t.ctx = { s.ctx with state := .dataBitActive } ∧
      t.input = rest ∧ t.presented = s.presented := by
  have hr : lookup s.ctx.state x = some rule3 := by simp [lookup_eq_by_lines, hq, hx]
  obtain ⟨t, hstep, hinv, hcfg, hctx, hrest, hpres⟩ := step_of_rule (rest := rest) h hin hr rfl
  refine ⟨t, hstep, hinv, hcfg, hctx, hrest, ?_⟩
  rw [hpres, awaiting_events, h.noEvents, List.append_nil]

/-- BIT_SHIFT as a step: in DataBitActive a sample with the clock clear captures its data line as on_data_bit does from
a machine `v` whose context differs in the state only (R58). -/
theorem step_bitShift {s v u : State} {y : Sample} {rest : List Cycle} (h : s.Inv)
    (hctx : s.ctx = { v.ctx with state := .dataBitActive }) (hcfg : s.cfg = v.cfg) (hy : bitClock y = false)
    (hin : s.input = sampleCycle y :: rest) (hu : onDataBit (dataLine y) v = .next u) :
    ∃ t, step s = .next t ∧ t.Inv ∧ t.cfg = s.cfg ∧ t.ctx = { u.ctx with state := .frameActive } ∧ t.input = rest ∧
      t.presented = s.presented := by
  have hr : lookup s.ctx.state y = some rule4 := by simp [lookup_eq_by_lines, hctx, hy]
  have hv : (s.awaiting rest).withAssembler v.ctx = s.awaiting rest :=
    withAssembler_of_ctx (by rw [awaiting_ctx, hctx])
  have hbit := onDataBit_withAssembler (dataLine y) (t := s.awaiting rest) (congrArg Config.channels hcfg)
  rw [hv, hu] at hbit
  obtain ⟨t, hstep, hinv, hcfg', hctx', hrest, hpres⟩ := step_of_rule h hin hr hbit
  refine ⟨t, hstep, hinv, hcfg', hctx', hrest, ?_⟩
  rw [hpres, withAssembler_events, awaiting_events, h.noEvents, List.append_nil]

/-- The clock is high in the first sample of the pair and low in the second; strobe and data are free. -/
def ClockPair (p : Sample × Sample) : Prop := bitClock p.1 = true ∧ bitClock p.2 = false

/-- A clock pair captures the data line of its second sample (R57, R58). -/
theorem run_clockPair {s v : State} {x y : Sample} {rest : List Cycle} (hxy : ClockPair (x, y)) (h : SameFrame s v)
    (hin : s.input = sampleCycle x :: sampleCycle y :: rest) :
    ∃ t u, Sys2Proof.core.run 2 s = .next t ∧ onDataBit (dataLine y) v = .next u ∧ SameFrame t u ∧
      t.input = rest ∧ t.presented = s.presented := by
  obtain ⟨hx, hy⟩ := hxy
  obtain ⟨u, hu⟩ := onDataBit_completes (dataLine y) (h.ctx ▸ h.cfg ▸ h.sound.context : v.ctx.Inv v.cfg.channels)
  obtain ⟨t₁, hstep₁, hinv₁, hcfg₁, hctx₁, hin₁, hpres₁⟩ := step_clkHigh h.sound h.active hx hin
  obtain ⟨t, hstep, hinv, hcfg, hctx, hrest, hpres⟩ :=
    step_bitShift hinv₁ (by rw [hctx₁, h.ctx]) (hcfg₁.trans h.cfg.symm) hy hin₁ hu
  have hq : u.ctx.state = .frameActive := by rw [onDataBit_state hu, h.ctx, h.active]
  have hcfgu : u.cfg = t.cfg := by rw [onDataBit_outside hu, hcfg, hcfg₁]; exact h.cfg
  exact ⟨t, u, run_two hstep₁ hstep, hu,
    ⟨hinv, by rw [hctx], by rw [hctx, Context.with_state_self hq], hcfgu⟩, hrest, hpres.trans hpres₁⟩

/-- Clock pairs capture what on_data_bit captures from their data bits, one after the other. -/
theorem run_clockPairs (pairs : List (Sample × Sample)) {s v : State} {rest : List Cycle}
    (hp : ∀ p ∈ pairs, ClockPair p) (h : SameFrame s v)
    (hin : s.input = replay (pairs.flatMap (fun p => [p.1, p.2])) ++ rest) :
    ∃ t u, Sys2Proof.core.run (2 * pairs.length) s = .next t ∧
      captureBits (pairs.map (fun p => dataLine p.2)) v = .next u ∧ SameFrame t u ∧ t.input = rest ∧
      t.presented = s.presented := by
  induction pairs generalizing s v with
  | nil => exact ⟨s, v, rfl, rfl, h, hin, rfl⟩
  | cons p pairs ih =>
    obtain ⟨hp₀, hps⟩ := List.forall_mem_cons.1 hp
    obtain ⟨t₁, u₁, hrun₁, hu₁, h₁, hin₁, hpres₁⟩ := run_clockPair hp₀ h hin
    obtain ⟨t, u, hrun, hu, ht, hrest, hpres⟩ := ih hps h₁ hin₁
    have hlen : 2 * (p :: pairs).length = 2 + 2 * pairs.length := by rw [List.length_cons]; omega
    refine ⟨t, u, ?_, andThen_eq_next.2 ⟨u₁, hu₁, hu⟩, ht, hrest, hpres.trans hpres₁⟩
    rw [hlen, run_add_of_next hrun₁, hrun]

/-! ### One word -/

/-- FRAME_TURN as a step: a sound machine emits its first `N_EMIT` slots, Close and Open (R59, R69). -/
theorem step_frameTurn {s : State} {e : Sample} {rest : List Cycle} (h : s.Inv) (hq : s.ctx.state = .frameActive)
    (hs : frameStrobe e = true) (hc : bitClock e = false) (hin : s.input = sampleCycle e :: rest) :
    ∃ t, step s = .next t ∧ t.input = rest ∧
      t.presented = s.presented ++ (wordEvents 0 (s.ctx.acc.take s.cfg.nEmit) ++ [.closed, .opened]) := by
  have hr : lookup s.ctx.state e = some rule5 := by simp [lookup_eq_by_lines, hq, hs, hc]
  obtain ⟨t, hstep, -, -, -, hrest, hpres⟩ :=
    step_of_rule (rest := rest) h hin hr (onFrameEnd_eq_next.2 ⟨h.emitInRange, rfl⟩)
  refine ⟨t, hstep, hrest, ?_⟩
  rw [hpres, writeSlot_events, setCursors_events, emit_events, awaiting_events, h.noEvents]
  rfl

/-- A slot's worth of bits from a zeroed slot assembles their word in it and opens the next slot (R68, R72). -/
theorem captureBits_word {s : State} {ds : List Bool} (hc : s.ctx.currentChannel ≠ s.cfg.channels)
    (hlen : s.ctx.acc.length = s.cfg.channels) (hb : s.ctx.currentBit = 0)
    (ha : s.ctx.acc[s.ctx.currentChannel]? = some 0) (hds : ds.length = 24) :
    ∃ t w, captureBits ds s = .next t ∧ t.ctx.currentChannel = s.ctx.currentChannel + 1 ∧ t.ctx.currentBit = 0 ∧
      t.ctx.acc[s.ctx.currentChannel]? = some w ∧ w.toNat = msbValue ds ∧
      (s.ctx.currentChannel + 1 < s.cfg.channels → t.ctx.acc[s.ctx.currentChannel + 1]? = some 0) := by
  have hslot := (List.getElem?_eq_some_iff.1 ha).1
  have hne : ds ≠ [] := List.ne_nil_of_length_pos (by rw [hds]; decide)
  obtain ⟨hc', hb', hacc, hopen⟩ := advanceCursor_of_lastBit (s := setCursors s.ctx.currentChannel 23
    (writeSlot s.ctx.currentChannel (ds.foldl shiftIn 0) s)) rfl
  refine ⟨_, ds.foldl shiftIn 0, captureBits_fills hc ha hne (by rw [hb, hds]), hc', hb', ?_, ?_, fun hn => ?_⟩
  · exact (hacc _ (Nat.succ_ne_self _).symm).trans (List.getElem?_set_self hslot)
  · exact foldl_shiftIn_toNat (n := 0) ds (by decide) (by omega)
  · exact hopen hn (by simp [hlen])

/-- A slot that has no bit yet holds zero (R18 item 3). -/
theorem Context.Inv.emptySlot {n : Nat} {c : Context} (h : c.Inv n) (hc : c.currentChannel ≠ n)
    (hb : c.currentBit = 0) : c.acc[c.currentChannel]? = some 0 := by
  have hslot : c.currentChannel < c.acc.length := h.slots ▸ Nat.lt_of_le_of_ne h.channelLe hc
  have ha := List.getElem?_eq_getElem hslot
  have hlt := h.partialLt _ ha
  rw [hb, Nat.pow_zero, Nat.lt_one_iff] at hlt
  rw [ha, BitVec.eq_of_toNat_eq (y := 0) hlt]

/-- Settles O47: the clock pairs capture 24 bits in the first slot, which the frame end then emits first. -/
theorem singleWordAssembly : Obligations.SingleWordAssembly := by
  intro s pairs e rest h hq hc hb hlen hp hs he hin
  obtain ⟨hch, hn, -, -⟩ := h.legal
  have hc' : s.ctx.currentChannel ≠ s.cfg.channels := by omega
  have ha : s.ctx.acc[s.ctx.currentChannel]? = some 0 := h.context.emptySlot hc' hb
  obtain ⟨t, u, hrun, hu, ht, hrest, hpres⟩ := run_clockPairs pairs hp ⟨h, hq, rfl, rfl⟩ hin
  obtain ⟨u', w, hu', huc, hub, huw, hw, hnext⟩ :=
    captureBits_word hc' h.context.slots hb ha ((List.length_map _).trans hlen)
  cases hu.symm.trans hu'
  rw [ht.ctx] at huc hub huw hnext
  rw [hc] at huc huw hnext
  have hcfg : t.cfg = s.cfg := by rw [← ht.cfg, captureBits_outside hu]
  obtain ⟨v, hstep, hin', hpres'⟩ := step_frameTurn ht.sound ht.active hs he hrest
  rw [hlen] at hrun
  refine ⟨t, v, w, t.ctx.acc.take s.cfg.nEmit, hrun, ht.active, huc, hub, huw, hw, hnext, hpres, hstep, hin', ?_, ?_,
    ?_⟩
  · rw [← hcfg]
    exact List.length_take_of_le ht.sound.emitInRange
  · exact (List.getElem?_take_of_lt hn).trans huw
  · rw [hpres', hpres, hcfg]

end Sys2Proof.Machine

end

section
/-! PROOFS. Multi-word assembly (spec/41_decoder_actions.md R73): a frame's bits fill the slots one after the other, and
the excess is dropped and flagged. -/

namespace Sys2Proof.Machine

/-! ### What captured bits leave alone -/

/-- on_data_bit never moves the channel cursor back (R68). -/
theorem onDataBit_currentChannel_le {d : Bool} {s t : State} (h : onDataBit d s = .next t) :
    s.ctx.currentChannel ≤ t.ctx.currentChannel := by
  obtain ⟨-, rfl⟩ | ⟨a, -, -, ⟨-, rfl⟩ | ⟨-, -, rfl⟩ | ⟨-, -, rfl⟩⟩ := onDataBit_eq_next h <;> simp

/-- Captured bits neither add nor remove a slot (R14, R68). -/
theorem captureBits_acc_length {ds : List Bool} {s t : State} (h : captureBits ds s = .next t) :
    t.ctx.acc.length = s.ctx.acc.length := by
  induction ds generalizing s with
  | nil => cases h; rfl
  | cons d ds ih =>
    obtain ⟨u, hu, ht⟩ := andThen_eq_next.1 h
    rw [ih ht]
    obtain ⟨-, rfl⟩ | ⟨a, -, -, ⟨-, rfl⟩ | ⟨-, -, rfl⟩ | ⟨-, -, rfl⟩⟩ := onDataBit_eq_next hu <;> simp

/-- Captured bits do not move the decoder (R64, R68). -/
theorem captureBits_state {ds : List Bool} {s t : State} (h : captureBits ds s = .next t) :
    t.ctx.state = s.ctx.state := by
  induction ds generalizing s with
  | nil => cases h; rfl
  | cons d ds ih =>
    obtain ⟨u, hu, ht⟩ := andThen_eq_next.1 h
    rw [ih ht, onDataBit_state hu]

/-- The slots before the cursor keep their words (R68). -/
theorem captureBits_acc_before {ds : List Bool} {s t : State} {k : Nat} (h : captureBits ds s = .next t)
    (hk : k < s.ctx.currentChannel) : t.ctx.acc[k]? = s.ctx.acc[k]? := by
  induction ds generalizing s with
  | nil => cases h; rfl
  | cons d ds ih =>
    obtain ⟨u, hu, ht⟩ := andThen_eq_next.1 h
    rw [ih ht (hk.trans_le (onDataBit_currentChannel_le hu)), onDataBit_acc_frame hu hk.ne (by omega)]

/-- Advancing the cursors does not touch the fault flag (R17). -/
@[simp] theorem advanceCursor_faultOverflow (s : State) :
    (advanceCursor s).ctx.faultOverflow = s.ctx.faultOverflow := by
  unfold advanceCursor
  split_ifs <;> rfl

/-! ### Past the capacity -/

/-- When every slot is full, each bit is dropped and flagged (R68, R87). -/
theorem captureBits_full {s : State} (ds : List Bool) (h : s.ctx.currentChannel = s.cfg.channels) :
    ∃ t, captureBits ds s = .next t ∧ t.ctx.currentChannel = s.ctx.currentChannel ∧
      t.ctx.currentBit = s.ctx.currentBit ∧ t.ctx.faultOverflow = (s.ctx.faultOverflow || decide (0 < ds.length)) := by
  induction ds generalizing s with
  | nil => exact ⟨s, rfl, rfl, rfl, by simp⟩
  | cons d ds ih =>
    obtain ⟨t, ht, hc, hb, hf⟩ := ih (s := raiseChannelOverflow s) h
    exact ⟨t, andThen_eq_next.2 ⟨_, onDataBit_full d h, ht⟩, hc, hb, by simp [hf]⟩

/-! ### The slots of a frame -/

/-- R73 for a machine `s` with `n` slots left, the current one being empty: what the bits `ds` make of it in `t`. -/
structure FillsSlots (n : Nat) (ds : List Bool) (s t : State) : Prop where
  channel : t.ctx.currentChannel = s.ctx.currentChannel + min ds.length (n * 24) / 24
  bit : t.ctx.currentBit = min ds.length (n * 24) % 24
  words : ∀ i, i * 24 < min ds.length (n * 24) →
    ∃ w, t.ctx.acc[s.ctx.currentChannel + i]? = some w ∧ w.toNat = msbValue ((ds.drop (i * 24)).take 24)
  flag : t.ctx.faultOverflow = (s.ctx.faultOverflow || decide (n * 24 < ds.length))

/-- Bits that leave the first slot part-filled (R68). -/
theorem captureBits_fillsSlots_of_short {s : State} {n : Nat} {ds : List Bool} (hn : n ≠ 0)
    (hc : s.ctx.currentChannel ≠ s.cfg.channels) (hb : s.ctx.currentBit = 0)
    (ha : s.ctx.acc[s.ctx.currentChannel]? = some 0) (hds : ds.length < 24) :
    ∃ t, captureBits ds s = .next t ∧ FillsSlots n ds s t := by
  have hm : min ds.length (n * 24) = ds.length := by omega
  have hslot := (List.getElem?_eq_some_iff.1 ha).1
  refine ⟨_, captureBits_inside ds hc ha (by rw [hb, Nat.zero_add]; exact hds), ?_, ?_, fun i hi => ?_, ?_⟩
  · simp [hm, Nat.div_eq_of_lt hds]
  · simp [hm, hb, Nat.mod_eq_of_lt hds]
  · obtain rfl : i = 0 := by omega
    refine ⟨ds.foldl shiftIn 0, List.getElem?_set_self hslot, ?_⟩
    rw [Nat.zero_mul, List.drop_zero, List.take_of_length_le hds.le]
    exact foldl_shiftIn_toNat (n := 0) ds (by decide) (by omega)
  · have hfits : ¬ n * 24 < ds.length := by omega
    simp [hfits]

/-- A word in the first slot and bits in the `n` slots after it are bits in `n + 1` slots (R73). -/
theorem FillsSlots.cons {n : Nat} {ws ds : List Bool} {s u t : State} {w : Word} (hws : ws.length = 24)
    (hc : u.ctx.currentChannel = s.ctx.currentChannel + 1) (hf : u.ctx.faultOverflow = s.ctx.faultOverflow)
    (hw : t.ctx.acc[s.ctx.currentChannel]? = some w) (hval : w.toNat = msbValue ws) (h : FillsSlots n ds u t) :
    FillsSlots (n + 1) (ws ++ ds) s t := by
  have hlen : (ws ++ ds).length = 24 + ds.length := by rw [List.length_append, hws]
  obtain ⟨hchannel, hbit, hwords, hflag⟩ := h
  refine ⟨by omega, by omega, fun i hi => ?_, ?_⟩
  · cases i with
    | zero => exact ⟨w, hw, by rw [Nat.zero_mul, List.drop_zero, List.take_left' hws, hval]⟩
    | succ i =>
      obtain ⟨v, hv, hvval⟩ := hwords i (by omega)
      have hslot : s.ctx.currentChannel + (i + 1) = u.ctx.currentChannel + i := by omega
      have hdrop : (ws ++ ds).drop ((i + 1) * 24) = ds.drop (i * 24) := by
        rw [Nat.succ_mul, Nat.add_comm, ← hws, List.drop_length_add_append]
      exact ⟨v, hslot ▸ hv, hdrop ▸ hvval⟩
  · have hover : (n + 1) * 24 < (ws ++ ds).length ↔ n * 24 < ds.length := by omega
    rw [hflag, hf, decide_eq_decide.2 hover]

/-- Bits from an empty slot with `n` slots left fill them in order (R68, R73): slot by slot, until the bits or the slots
run out. -/
theorem captureBits_fillsSlots (n : Nat) {s : State} (ds : List Bool) (hn : s.ctx.currentChannel + n = s.cfg.channels)
    (hlen : s.ctx.acc.length = s.cfg.channels) (hb : s.ctx.currentBit = 0)
    (ha : n ≠ 0 → s.ctx.acc[s.ctx.currentChannel]? = some 0) :
    ∃ t, captureBits ds s = .next t ∧ FillsSlots n ds s t := by
  induction n generalizing s ds with
  | zero =>
    obtain ⟨t, ht, hc, hb', hf⟩ := captureBits_full ds hn
    exact ⟨t, ht, by simpa using hc, by simpa [hb] using hb', fun i hi => by omega, by simpa using hf⟩
  | succ n ih =>
    have hc : s.ctx.currentChannel ≠ s.cfg.channels := by omega
    have hzero := ha n.succ_ne_zero
    rcases lt_or_ge ds.length 24 with hshort | hlong
    · exact captureBits_fillsSlots_of_short n.succ_ne_zero hc hb hzero hshort
    · have hws : (ds.take 24).length = 24 := List.length_take_of_le hlong
      obtain ⟨u, w, hu, huc, hub, huw, hval, hopen⟩ := captureBits_word hc hlen hb hzero hws
      have huf : u.ctx.faultOverflow = s.ctx.faultOverflow := by
        have hfills := captureBits_fills hc hzero (List.ne_nil_of_length_eq_add_one hws) (by rw [hb, hws])
        cases hu.symm.trans hfills
        simp
      have hcfg : u.cfg = s.cfg := by rw [captureBits_outside hu]
      obtain ⟨t, ht, hfill⟩ := ih (s := u) (ds.drop 24) (by rw [hcfg]; omega)
        (by rw [hcfg, captureBits_acc_length hu, hlen]) hub (fun hn' => huc ▸ hopen (by omega))
      have hkeep : t.ctx.acc[s.ctx.currentChannel]? = some w :=
        (captureBits_acc_before ht (by omega)).trans huw
      rw [← List.take_append_drop 24 ds]
      exact ⟨t, by rw [captureBits_append, hu, andThen_next, ht], .cons hws huc huf hkeep hval hfill⟩

/-- Settles O48: at a frame boundary every slot is left, and the slots fill in order. -/
theorem multiWordAssembly : Obligations.MultiWordAssembly := by
  intro s ds hlen hc hb ha
  obtain ⟨t, ht, hchannel, hbit, hwords, hflag⟩ :=
    captureBits_fillsSlots s.cfg.channels ds (by rw [hc, Nat.zero_add]) hlen hb (fun _ => hc ▸ ha)
  simp only [hc, Nat.zero_add] at hchannel hwords
  exact ⟨t, ht, hchannel, hbit, hwords, hflag, captureBits_state ht, by rw [captureBits_outside ht]⟩

end Sys2Proof.Machine

end

section
/-! PROOFS. The output encoder (spec/42_output_encoder.md): the number a word is printed as, which events a sink takes, and
what each operation writes and leaves alone. -/

namespace Sys2Proof.Machine

/-! ### The two's-complement reading of a word -/

/-- R80 is the two's-complement reading of a 24-bit vector. -/
theorem signed24_eq_toInt (w : Word) : signed24 w = w.toInt := by
  rw [BitVec.toInt_eq_msb_cond, BitVec.msb_eq_getLsbD_last]
  rfl

theorem signed24_ge (w : Word) : -8388608 ≤ signed24 w := signed24_eq_toInt w ▸ w.le_toInt

theorem signed24_le (w : Word) : signed24 w ≤ 8388607 := by
  have h : signed24 w < 2 ^ 23 := signed24_eq_toInt w ▸ w.toInt_lt
  omega

/-- Settles O21: the reading is `BitVec.toInt`, which a sign extension keeps. -/
theorem signedReadingOfAWord : Obligations.SignedReadingOfAWord := by
  refine ⟨fun w => ⟨rfl, signed24_ge w, signed24_le w, ?_⟩, by decide, by decide, by decide⟩
  rw [BitVec.toInt_signExtend_of_le (by decide), signed24_eq_toInt]

/-- Settles O23: the signed reading is the balanced remainder of the word modulo 2^24. -/
theorem theTwoModesCarryTheSameWord : Obligations.TheTwoModesCarryTheSameWord := by
  intro w
  calc signed24 w % 2 ^ 24
    _ = (w.toNat : Int).bmod (2 ^ 24) % (2 ^ 24 : Nat) := by
        rw [signed24_eq_toInt, BitVec.toInt_eq_toNat_bmod]; rfl
    _ = (w.toNat : Int) % (2 ^ 24 : Nat) := Int.bmod_emod
    _ = w.toNat := Int.emod_eq_of_lt (Int.natCast_nonneg _) (Int.ofNat_lt.2 w.isLt)

/-! ### The decimal text -/

theorem ofNat_add_eq_digitChar : ∀ n < 10, Char.ofNat (48 + n) = n.digitChar := by decide

/-- With fuel for every digit, the model's digits are the library's. -/
theorem decimalDigits_eq_toDigits {fuel n : Nat} (h : n < 10 ^ (fuel + 1)) :
    decimalDigits fuel n = Nat.toDigits 10 n := by
  induction fuel generalizing n with
  | zero =>
    have hn : n < 10 := h
    rw [decimalDigits, Nat.mod_eq_of_lt hn, ofNat_add_eq_digitChar n hn, Nat.toDigits_of_lt_base hn]
  | succ fuel ih =>
    rw [decimalDigits, Nat.toDigits_eq_if (by decide)]
    split_ifs with hn
    · rw [ofNat_add_eq_digitChar n hn]
    · rw [ih (by omega), ofNat_add_eq_digitChar _ (Nat.mod_lt n (by decide))]

theorem decimalText_of_neg {z : Int} (hz : z < 0) (h : z.natAbs < 10 ^ 8) :
    decimalText z = '-' :: Nat.toDigits 10 z.natAbs := by
  rw [decimalText, if_pos hz, decimalDigits_eq_toDigits h]

theorem decimalText_of_nonneg {z : Int} (hz : 0 ≤ z) (h : z.natAbs < 10 ^ 8) :
    decimalText z = Nat.toDigits 10 z.natAbs := by
  rw [decimalText, if_neg (Int.not_lt.2 hz), decimalDigits_eq_toDigits h]

theorem readDigits_of_all_isDigit {cs : List Char} (hne : cs ≠ []) (h : cs.all Char.isDigit = true) :
    readDigits cs = some (Nat.ofDigitChars 10 cs 0) := by
  cases cs with
  | nil => exact absurd rfl hne
  | cons c cs => exact if_pos h

theorem all_isDigit_toDigits (n : Nat) : (Nat.toDigits 10 n).all Char.isDigit = true :=
  List.all_eq_true.2 fun _ hc => Nat.isDigit_of_mem_toDigits (by decide) (by decide) hc

theorem readDigits_toDigits (n : Nat) : readDigits (Nat.toDigits 10 n) = some n := by
  rw [readDigits_of_all_isDigit Nat.toDigits_ne_nil (all_isDigit_toDigits n), Nat.ofDigitChars_ten_toDigits]

theorem readDecimal_minus {cs : List Char} {n : Nat} (h : readDigits cs = some n) :
    readDecimal ('-' :: cs) = some (-(n : Int)) := by
  simp only [readDecimal, h]
  rfl

/-- A text that is read as digits begins with no sign. -/
theorem readDecimal_of_readDigits {cs : List Char} {n : Nat} (h : readDigits cs = some n) :
    readDecimal cs = some (n : Int) := by
  have hsign : ∀ ds, cs = '-' :: ds → False := by
    rintro ds rfl
    exact absurd h (by simp [readDigits])
  rw [readDecimal.eq_2 cs hsign, h]
  rfl

/-- The printed text of a number of at most eight digits reads back as the number (R81). -/
theorem readDecimal_decimalText {z : Int} (h : z.natAbs < 10 ^ 8) : readDecimal (decimalText z) = some z := by
  rcases lt_or_ge z 0 with hz | hz
  · rw [decimalText_of_neg hz h, readDecimal_minus (readDigits_toDigits _), Int.ofNat_natAbs_of_nonpos hz.le, neg_neg]
  · rw [decimalText_of_nonneg hz h, readDecimal_of_readDigits (readDigits_toDigits _), Int.natAbs_of_nonneg hz]

theorem signed24_natAbs_le (w : Word) : (signed24 w).natAbs ≤ 8388608 := by
  have hge := signed24_ge w
  have hle := signed24_le w
  omega

/-- Settles O24: the digits are those of the absolute value, which fits in the eight the model has fuel for. -/
theorem decimalTextReadsBack : Obligations.DecimalTextReadsBack := fun w =>
  readDecimal_decimalText ((signed24_natAbs_le w).trans_lt (by decide))

/-! ### The field of a number -/

/-- A number of at most seven digits takes eight characters with its sign. -/
theorem decimalText_length_le {z : Int} (h : z.natAbs < 10 ^ 7) : (decimalText z).length ≤ 8 := by
  have hfuel : z.natAbs < 10 ^ 8 := h.trans (by decide)
  have hdigits : (Nat.toDigits 10 z.natAbs).length ≤ 7 := (Nat.length_toDigits_le_iff (by decide) (by decide)).2 h
  rcases lt_or_ge z 0 with hz | hz
  · rw [decimalText_of_neg hz hfuel, List.length_cons]
    omega
  · rw [decimalText_of_nonneg hz hfuel]
    omega

theorem field_of_left {l : Layout} (h : l.padSide = .left) (t : List Char) :
    field l t = List.replicate (l.fieldW - t.length) l.padChar ++ t := by
  simp only [field, h]

theorem field_of_right {l : Layout} (h : l.padSide = .right) (t : List Char) :
    field l t = t ++ List.replicate (l.fieldW - t.length) l.padChar := by
  simp only [field, h]

/-- A text that fits its field fills it exactly (D16). -/
theorem field_length {l : Layout} {t : List Char} (h : t.length ≤ l.fieldW) : (field l t).length = l.fieldW := by
  cases hp : l.padSide with
  | left => rw [field_of_left hp, List.length_append, List.length_replicate, Nat.sub_add_cancel h]
  | right => rw [field_of_right hp, List.length_append, List.length_replicate, Nat.add_sub_cancel' h]

/-- Settles O25: the text of a word fits in eight characters, and the padding makes up the rest. -/
theorem numberFieldHasFixedWidth : Obligations.NumberFieldHasFixedWidth := by
  intro l w hl
  have htext : (decimalText (signed24 w)).length ≤ 8 :=
    decimalText_length_le ((signed24_natAbs_le w).trans_lt (by decide))
  exact ⟨field_length (htext.trans hl), l.fieldW - (decimalText (signed24 w)).length, rfl⟩

/-! ### The events a sink takes -/

/-- R84: the kept events are those at whose place no failure is flagged; the flags of the tail are those of the list one
place on. -/
theorem takenEvents_eq_filter_zipIdx (es : List Event) (ls : List Bool) :
    takenEvents es ls = (es.zipIdx.filter (fun p => !(ls.getD p.2 false))).map Prod.fst := by
  induction es generalizing ls with
  | nil => rw [takenEvents_nil]; rfl
  | cons e es ih =>
    cases ls with
    | nil => simp [List.zipIdx_map_fst]
    | cons lost ls =>
      have htail : ((es.zipIdx 1).filter (fun p => !((lost :: ls).getD p.2 false))).map Prod.fst =
          takenEvents es ls := by
        rw [ih, List.zipIdx_succ, List.filter_map, List.map_map]
        rfl
      rw [List.zipIdx_cons, List.filter_cons, List.getD_cons_zero, takenEvents, ← htail]
      cases lost <;> rfl

/-- Settles O20: no flags lose nothing, and any flags act place by place. -/
theorem sinkTakesAllButTheLostEvents : Obligations.SinkTakesAllButTheLostEvents :=
  ⟨takenEvents_nil_lost, takenEvents_eq_filter_zipIdx⟩

/-! ### What the operations write and leave alone -/

/-- The bytes of R78 put together as R82 does: each bit of the word lies in one of the three bytes. -/
theorem tripletWord_extractLsb' (w : Word) :
    tripletWord (w.extractLsb' 0 8) (w.extractLsb' 8 8) (w.extractLsb' 16 8) = w := by
  ext i hi
  simp only [tripletWord, BitVec.getElem_or, BitVec.getElem_shiftLeft, BitVec.getElem_setWidth,
    BitVec.getLsbD_extractLsb']
  by_cases h8 : i < 8
  · simp [h8, show i < 16 by omega, hi]
  · by_cases h16 : i < 16
    · simp [h8, h16, hi, show i - 8 < 8 by omega, show 8 + (i - 8) = i by omega]
    · simp [h8, h16, hi, show ¬ i - 8 < 8 by omega, show i - 16 < 8 by omega, show 16 + (i - 16) = i by omega]

/-- Settles O22: the three bytes put together again are the word. -/
theorem binaryTripletRoundTrip : Obligations.BinaryTripletRoundTrip := fun w =>
  ⟨_, _, _, rfl, tripletWord_extractLsb' w⟩

theorem exec_encBinary (s : State) : exec .encBinary s =
    .next (present { s with byteSink := s.byteSink ++ (takenEvents s.events s.lost).flatMap binaryBytes }) := rfl

theorem exec_encHuman (s : State) : exec .encHuman s =
    .next (present { s with
      textSink := s.textSink ++ (takenEvents s.events s.lost).flatMap (humanText s.cfg.layout) }) := rfl

/-- Settles O18: `binaryBytes` and `present` written out. -/
theorem encBinaryWritesLittleEndianTriplets : Obligations.EncBinaryWritesLittleEndianTriplets :=
  exec_encBinary

/-- Settles O19: `humanText` and `present` written out. -/
theorem encHumanWritesBracketsAndNumbers : Obligations.EncHumanWritesBracketsAndNumbers :=
  exec_encHuman

/-- Settles O26: each operation presents the events and appends to its own sink. -/
theorem encoderLeavesTheDecoderAlone : Obligations.EncoderLeavesTheDecoderAlone := by
  intro s t
  simp only [exec_encBinary, exec_encHuman, Host.Outcome.next.injEq]
  refine ⟨?_, ?_, ?_⟩
  · rintro (rfl | rfl) <;> exact ⟨rfl, rfl, rfl, rfl⟩
  · rintro rfl
    exact ⟨rfl, List.prefix_append _ _⟩
  · rintro rfl
    exact ⟨rfl, List.prefix_append _ _⟩

end Sys2Proof.Machine

end

section
/-! PROOFS. Exceptions and idle cycles (spec/60_exceptions.md): what ChannelOverflow does and leaves alone, and the
cycles that bring no sample. -/

namespace Sys2Proof.Machine

/-! ### ChannelOverflow -/

/-- FRAME_TURN resets both cursors and keeps the fault flag (R69, R87). -/
theorem exec_frameTurn_cursors_flag {x : BitVec 5} {d c : Bool} {s t : State}
    (h : exec (.frameTurn x d c) s = .next t) :
    t.ctx.currentChannel = 0 ∧ t.ctx.currentBit = 0 ∧ t.ctx.faultOverflow = s.ctx.faultOverflow := by
  obtain ⟨u, hu, rfl⟩ := takeRule_eq_next.1 h
  obtain ⟨-, rfl⟩ := onFrameEnd_eq_next.1 hu
  exact ⟨rfl, rfl, rfl⟩

/-- BIT_SHIFT with every slot full raises ChannelOverflow and goes on to FrameActive (R58, R87). -/
theorem exec_bitShift_full (x : BitVec 5) (d strobe : Bool) {s : State} (h : s.ctx.currentChannel = s.cfg.channels) :
    exec (.bitShift x d strobe) s = .next (setDecoderState .frameActive (raiseChannelOverflow s)) :=
  exec_bitShift x strobe (onDataBit_full d h)

/-- Raising ChannelOverflow again changes nothing: the flag is sticky (R87). -/
theorem raiseChannelOverflow_of_flag {s : State} (h : s.ctx.faultOverflow = true) : raiseChannelOverflow s = s := by
  simp only [raiseChannelOverflow, setFaultOverflow, ← h]

/-- Settles O15: BIT_SHIFT runs the overflow path of on_data_bit, FRAME_TURN keeps the flag, and only a reset edge
clears it. -/
theorem overflowSetsTheFlagOnly : Obligations.OverflowSetsTheFlagOnly := by
  refine ⟨fun x d strobe s hc => exec_bitShift_full x d strobe hc, fun x d strobe s hc hf => ?_,
    fun _ _ _ _ _ h => exec_frameTurn_cursors_flag h, fun _ _ h hs ht => step_clears_flag_of_reset h hs ht⟩
  rw [exec_bitShift_full x d strobe hc, raiseChannelOverflow_of_flag hf]
  rfl

/-! ### Cycles without a sample -/

/-- With no event held, the encoder operation only ends the cycle (R77). -/
theorem exec_encoder_of_noEvents {s : State} (h : s.events = []) :
    exec (encoderInstr s) s = .next { s with lost := [] } := by
  cases hm : s.cfg.outMode with
  | binary => simp [encoderInstr_binary hm, exec_encBinary, present, h]
  | human => simp [encoderInstr_human hm, exec_encHuman, present, h]

/-- A cycle without a sample runs the encoder operation alone (R98). -/
theorem step_of_idleCycle {s : State} {b : Sample} {lost : List Bool} {rest : List Cycle}
    (hin : s.input = ⟨false, false, b, lost⟩ :: rest) :
    step s = exec (encoderInstr { s with input := rest, lost := lost }) { s with input := rest, lost := lost } := by
  rw [step, fetch_idle hin rfl rfl]

/-- On an exhausted source, a step with nothing held over leaves the machine as it is (R88, R98). -/
theorem step_of_exhausted {s : State} (hin : s.input = []) (hev : s.events = []) (hl : s.lost = []) :
    step s = .next s := by
  rw [step, fetch_nil hin]
  exact (exec_encoder_of_noEvents hev).trans (by rw [← hl])

/-- A machine that a step leaves as it is stays so for any number of steps. -/
theorem run_of_step_self {M : Host.Core} {s : M.State} (h : M.step s = .next s) (n : Nat) : M.run n s = .next s := by
  induction n with
  | zero => rfl
  | succ n ih => simp only [Host.Core.run, h, ih]

/-- Settles O29: the step is the encoder operation, which keeps the context, and without events only ends the cycle; an
exhausted source is a fixed point of the step. -/
theorem cycleWithoutSampleKeepsTheContext : Obligations.CycleWithoutSampleKeepsTheContext := by
  refine ⟨fun s b lost rest hin => ⟨?_, fun hev => ?_⟩, fun s n hin hev hl => ?_⟩
  · obtain ⟨bs, ts, he⟩ := exec_encoder { s with input := rest, lost := lost }
    exact ⟨_, (step_of_idleCycle hin).trans he, rfl⟩
  · exact (step_of_idleCycle hin).trans (exec_encoder_of_noEvents (s := { s with input := rest, lost := lost }) hev)
  · exact run_of_step_self (M := Sys2Proof.core) (step_of_exhausted hin hev hl) n

end Sys2Proof.Machine

end

section
/-! PROOFS. Reset and hazards (spec/70_reset_and_hazards.md): the reset edge, samples before the first one, and the
samples that are ignored until the frame is active. -/

namespace Sys2Proof.Machine

/-! ### The reset edge -/

/-- A reset edge consumes its cycle, sample included, and resets the context (R100). -/
theorem step_of_resetEdge {s : State} {c : Cycle} {rest : List Cycle} (hin : s.input = c :: rest)
    (hr : c.rst = true) : step s = .next (applyReset { s with input := rest, lost := c.lost }) := by
  rw [step, fetch_reset hin hr]

/-- No event output is set in the cycle of a reset edge, even if it brings a sample (R23, R100). -/
theorem cycleEvents_of_resetEdge {s : State} {c : Cycle} {rest : List Cycle} (hin : s.input = c :: rest)
    (hr : c.rst = true) : cycleEvents s = [] := by
  have hp : presentedSample s = none := by rw [presentedSample_cons hin, if_pos hr]
  obtain ⟨hev, -⟩ := ports_noSample hp
  exact hev

/-- Only a reset edge leads to Idle from another state: no rule does, and a cycle without a sample keeps the state. -/
theorem step_enters_idle_of_reset {s t : State} (h : step s = .next t) (hs : s.ctx.state ≠ .idle)
    (ht : t.ctx.state = .idle) : ∃ c rest, s.input = c :: rest ∧ c.rst = true := by
  obtain ⟨c, rest, hin, hr, -⟩ | ⟨-, _, _, rfl⟩ | ⟨_, _, -, -, -, _, _, rfl⟩ |
    ⟨⟨rst, valid, b, lost⟩, rest, -, hin, rfl, rfl, -, -, -⟩ := step_eq_next h
  · exact ⟨c, rest, hin, hr⟩
  · exact absurd ht hs
  · exact absurd ht hs
  · rw [step_state ⟨lost, hin⟩ h] at ht
    exact absurd (nextDecoderState_eq_idle ht) hs

/-- Settles O30: the reset edge is `applyReset`; no other step enters Idle, and none other clears the flag. -/
theorem resetEdgeClearsTheContext : Obligations.ResetEdgeClearsTheContext := by
  refine ⟨fun s c rest hin hr => ⟨step_of_resetEdge hin hr, cycleEvents_of_resetEdge hin hr⟩, fun s t h hor => ?_⟩
  obtain ⟨hs, ht⟩ | ⟨hs, ht⟩ := hor
  · exact step_enters_idle_of_reset h hs ht
  · exact step_clears_flag_of_reset h hs ht

/-- Settles O31: the fetch refuses a sample of an unreset machine, and a reset edge sets the mark. -/
theorem sampleBeforeResetHasNoMeaning : Obligations.SampleBeforeResetHasNoMeaning := by
  refine ⟨fun s b rest hw ⟨lost, hin⟩ => ?_, fun s c rest hin hr => ⟨_, step_of_resetEdge hin hr, rfl⟩⟩
  rw [step_of_sampleCycle hin, hw, if_neg Bool.false_ne_true]

/-! ### Samples that no rule matches -/

/-- A sound machine takes a sample that no rule matches and changes nothing else (R60, R103). -/
theorem step_of_no_rule {s : State} {b : Sample} {rest : List Cycle} (h : s.Inv) (hp : s.Presents b rest)
    (hno : lookup s.ctx.state b = none) : step s = .next { s with input := rest } := by
  obtain ⟨lost, hin⟩ := hp
  have hfeed : feed b { s with input := rest, lost := lost } = .next { s with input := rest, lost := lost } :=
    feed_of_no_rule hno
  have henc : exec (encoderInstr { s with input := rest, lost := lost }) { s with input := rest, lost := lost } =
      .next { s with input := rest, lost := [] } := exec_encoder_of_noEvents h.noEvents
  rw [step_of_sampleCycle hin, if_pos h.started, hfeed, andThen_next, henc, ← h.noLost]

/-- Settles O45: rules 1 and 2, the only ones from these two states, look at the strobe alone. -/
theorem clockIsIgnoredBeforeTheFrameIsActive : Obligations.ClockIsIgnoredBeforeTheFrameIsActive := by
  intro s b rest h hp hhold
  have hno : noRuleMatches s.ctx.state (bitClock b) (frameStrobe b) = true :=
    (noRuleMatches_iff_by_state _ _ _).2 (hhold.imp_right .inl)
  exact step_of_no_rule h hp ((lookup_eq_none_iff _ _).2 hno)

end Sys2Proof.Machine

end
